-- ==== Sys2Proof/Word.lean ====
section
/-! DEFINITION. The word types of the engine (spec/00_scope.md R6: a byte is 8 bits, a slave address 7, a command word 20, a result word 12). -/

namespace Sys2Proof

/-- A data byte, a controller register's content, a transfer buffer (R6, R20). -/
abbrev Byte := BitVec 8

/-- A slave address, 0 to 127 (R5 `ADDR_BITS`). -/
abbrev Addr := BitVec 7

/-- A command word, format CMD20 (R50). -/
abbrev CommandWord := BitVec 20

/-- A result word, format RES12 (R52). -/
abbrev ResultWord := BitVec 12

end Sys2Proof
end

