-- ==== Sys2Proof/Syntax.lean ====
section
/-! DEFINITION. The instructions: one constructor per row of spec/opcode_table.json, the words that carry them, and the surface syntax of spec/30_encoding.md R64 to R66. -/

namespace Sys2Proof

/-- The direction flag of an address phase (R5 `DIR_WRITE`, `DIR_READ`). -/
inductive Direction
  | write
  | read
  deriving DecidableEq, Repr

/-- The rows of the opcode table: seven commands (R51) and the three control words the engine asserts (R54).
Every operand has exactly the width of its field, so that no operand is out of range (R59). -/
inductive Instr
  /-- INIT (R80). -/
  | init
  /-- START addr, dir (R82). -/
  | start (addr : Addr) (dir : Direction)
  /-- WRITE_BYTE data (R83). -/
  | writeByte (data : Byte)
  /-- READ_BYTE (R84). -/
  | readByte
  /-- STOP (R85). -/
  | stop
  /-- WRITE_TRANSACTION addr, data (R90). -/
  | writeTransaction (addr : Addr) (data : Byte)
  /-- READ_TRANSACTION addr (R91). -/
  | readTransaction (addr : Addr)
  /-- CW_START, the control word 0xA4: ASSERT(CW_START) (R72). -/
  | cwStart
  /-- CW_CLOCK, the control word 0xC4: ASSERT(CW_CLOCK) (R73). -/
  | cwClock
  /-- CW_STOP, the control word 0x94: ASSERT(CW_STOP) (R74). -/
  | cwStop
  deriving DecidableEq, Repr

/-- The rows that are commands, which a caller can issue (R51: the control words have no command encoding). -/
def Instr.isCommand : Instr → Bool
  | .init => true
  | .start _ _ => true
  | .writeByte _ => true
  | .readByte => true
  | .stop => true
  | .writeTransaction _ _ => true
  | .readTransaction _ => true
  | .cwStart => false
  | .cwClock => false
  | .cwStop => false

/-- A word as it is presented to the block: a command word at the command port (R50), or a control word at the
adapter (R53; log 7). -/
inductive PortWord
  | command (w : CommandWord)
  | control (w : Byte)
  deriving DecidableEq, Repr

/-- One line of the assembly syntax of R64 and R66, operands not yet checked against their ranges (R65). -/
inductive AsmLine
  | init
  | start (a : Nat) (d : Direction)
  | writeByte (b : Nat)
  | readByte
  | stop
  | writeTransaction (a b : Nat)
  | readTransaction (a : Nat)
  /-- `WRITE_REG a, r, b`, a pseudo-instruction (R66). -/
  | writeReg (a r b : Nat)
  /-- `PROBE a, d`, a pseudo-instruction (R66). -/
  | probe (a : Nat) (d : Direction)
  deriving DecidableEq, Repr

end Sys2Proof
end

