-- ==== Sys2Proof/Config.lean ====
section
/-! DEFINITION. What an implementation fixes (spec/00_scope.md R5) and the free values of the model: constants without a body, of which nothing can be proved. -/

namespace Sys2Proof

/-- The `STATUS` table: the seven status codes the engine knows (R57). Each entry is the 8-bit value `SR & 0xF8`. -/
structure StatusTable where
  /-- "start condition sent": expected by START's first check. -/
  start : Byte
  /-- "address sent, ACK received", direction Write. -/
  addrAckW : Byte
  /-- "address sent, ACK received", direction Read. -/
  addrAckR : Byte
  /-- "data sent, ACK received": expected by WRITE_BYTE. -/
  dataTxAck : Byte
  /-- "data received, ACK sent": expected by READ_BYTE. -/
  dataRxAck : Byte
  /-- "arbitration lost": selects `ArbitrationLost` at any check. -/
  arbLost : Byte
  /-- "data sent, NACK received": named by the source, expected by no check. -/
  dataTxNack : Byte
  deriving DecidableEq, Repr

/-- The codes some check of the engine expects (R57, column "used as"). -/
def StatusTable.expected (t : StatusTable) : List Byte :=
  [t.start, t.addrAckW, t.addrAckR, t.dataTxAck, t.dataRxAck]

/-- All seven codes of the table. -/
def StatusTable.entries (t : StatusTable) : List Byte :=
  t.expected ++ [t.arbLost, t.dataTxNack]

/-- The parameters of R5 that are OPEN: arguments of the model, fixed for its life (R18). -/
structure Config where
  /-- The `STATUS` table (R5, R57; U13). -/
  status : StatusTable
  /-- `BIT_RATE_DIVISOR`, the byte INIT writes to `BRR` (R5, R80; U12). -/
  bitRateDivisor : Byte
  /-- `REG_BASE`, where a platform puts the controller's registers: OPEN, and no rule depends on it (R5, R31; U14). -/
  regBase : Nat
  deriving DecidableEq, Repr

/-- The free values: the `n`-th byte the spec leaves open in a run (U1, U2; R113). Log 1, 2 and 3. -/
opaque Config.freeByte : Nat → Byte

/-- Which of the codes R120 allows RefBus puts in place of a code that its table makes an expected one: left open. Log 4. -/
opaque Config.freeIndex : Nat → Nat

/-- `BIT_RATE_DIVISOR` of the machine `State.reset`: OPEN in R5, no value is known. Log 13. -/
opaque Config.freeBitRateDivisor : Byte

/-- `REG_BASE` of the machine `State.reset`: OPEN in R5, no value is known. Log 13. -/
opaque Config.freeRegBase : Nat

end Sys2Proof
end

