-- ==== Sys2Proof/WellFormed.lean ====
section
/-! DEFINITION. What must hold of a term before it is used: operand ranges of the surface syntax (spec/30_encoding.md R65), the `STATUS` table and the configuration (spec/00_scope.md R5). -/

namespace Sys2Proof

/-- Every term of `Instr` is well-formed: each operand's type has the width of its field (R59: `addr` 7 bits, `dir` 1, `data` 8),
so there is nothing left to check. -/
def Instr.wellFormed : Instr → Bool
  | .init => true
  | .start _ _ => true
  | .writeByte _ => true
  | .readByte => true
  | .stop => true
  | .writeTransaction _ _ => true
  | .readTransaction _ => true
  | .cwStart => true
  | .cwClock => true
  | .cwStop => true

/-- "a value above 127 is an assembly error" (R65). -/
def addrInRange (a : Nat) : Bool := a < 128

/-- "`b` is a byte, 0 to 255" (R65). -/
def byteInRange (b : Nat) : Bool := b < 256

/-- A line of assembly whose operands all fit their fields (R65). -/
def AsmLine.wellFormed : AsmLine → Bool
  | .init => true
  | .start a _ => addrInRange a
  | .writeByte b => byteInRange b
  | .readByte => true
  | .stop => true
  | .writeTransaction a b => addrInRange a && byteInRange b
  | .readTransaction a => addrInRange a
  | .writeReg a r b => addrInRange a && byteInRange r && byteInRange b
  | .probe a _ => addrInRange a

/-- "every entry has bits 2 to 0 equal to zero" (R5). -/
def StatusTable.lowBitsZero (t : StatusTable) : Bool :=
  t.entries.all fun c => c &&& 0x07 == 0

/-- "`ST_ARB_LOST` differs from" every code a check expects (R5). -/
def StatusTable.arbLostDistinct (t : StatusTable) : Bool :=
  t.expected.all fun c => c != t.arbLost

/-- What "the model must check, of whatever `STATUS` table it is given" (R5). -/
def StatusTable.wellFormed (t : StatusTable) : Bool :=
  t.lowBitsZero && t.arbLostDistinct

/-- A configuration the spec allows (R5): its table passes the check. Any byte is a bit-rate divisor (R70). -/
def Config.wellFormed (c : Config) : Bool := c.status.wellFormed

end Sys2Proof
end

