-- ==== Sys2Proof/Decode.lean ====
section
/-! DEFINITION. Decoding and encoding (spec/30_encoding.md R50 to R63): the seven command words, the three control words, and the rejection of every other word by name. -/

namespace Sys2Proof

/-- Why a word is no instruction: the verdict `invalid` of R60, with its reason. -/
inductive BadWord
  /-- `op` is 0x0 or 0x8 to 0xF (R60, R61). -/
  | noSuchOpcode
  /-- A must-be-zero field is not zero or the fixed `dir` bit is wrong: `w & mask != match` (R60, R63). -/
  | fixedBitsDiffer
  /-- A byte at the adapter that is none of the three control words (R53: no other value is ever written to `CR`). -/
  | noSuchControlWord
  deriving DecidableEq, Repr

/-- `op`, bits 19 to 16 (R50). -/
def opField (w : CommandWord) : BitVec 4 := w.extractLsb' 16 4

/-- `addr`, bits 15 to 9 (R50, R59). -/
def addrField (w : CommandWord) : Addr := w.extractLsb' 9 7

/-- `dir`, bit 8: 0 = Write, 1 = Read (R50, R59). -/
def dirField (w : CommandWord) : Direction := if w.getLsbD 8 then .read else .write

/-- `data`, bits 7 to 0 (R50, R59). -/
def dataField (w : CommandWord) : Byte := w.extractLsb' 0 8

/-- A row of the opcode map (R51). -/
structure Row where
  mtch : CommandWord
  mask : CommandWord
  deriving DecidableEq, Repr

def initRow : Row := ⟨0x10000, 0xFFFFF⟩
def startRow : Row := ⟨0x20000, 0xF00FF⟩
def writeByteRow : Row := ⟨0x30000, 0xFFF00⟩
def readByteRow : Row := ⟨0x40000, 0xFFFFF⟩
def stopRow : Row := ⟨0x50000, 0xFFFFF⟩
def writeTransactionRow : Row := ⟨0x60000, 0xF0100⟩
def readTransactionRow : Row := ⟨0x70100, 0xF01FF⟩

/-- "a word `w` is that command if and only if `w & mask == match`" (R51). -/
def Row.matches (r : Row) (w : CommandWord) : Bool := w &&& r.mask == r.mtch

/-- The test of R63 on the selected row. -/
def ifMatches (r : Row) (w : CommandWord) (i : Instr) : Except BadWord Instr :=
  if r.matches w then .ok i else .error .fixedBitsDiffer

/-- Decoding a command word, the algorithm of R63: select the row by `op`, test the fixed bits, extract the operands. -/
def decodeCommand (w : CommandWord) : Except BadWord Instr :=
  match (opField w).toNat with
  | 1 => ifMatches initRow w .init
  | 2 => ifMatches startRow w (.start (addrField w) (dirField w))
  | 3 => ifMatches writeByteRow w (.writeByte (dataField w))
  | 4 => ifMatches readByteRow w .readByte
  | 5 => ifMatches stopRow w .stop
  | 6 => ifMatches writeTransactionRow w (.writeTransaction (addrField w) (dataField w))
  | 7 => ifMatches readTransactionRow w (.readTransaction (addrField w))
  | _ => .error .noSuchOpcode

/-- Decoding a control word (R53, R54). -/
def decodeControl (w : Byte) : Except BadWord Instr :=
  if w = 0xA4 then .ok .cwStart
  else if w = 0xC4 then .ok .cwClock
  else if w = 0x94 then .ok .cwStop
  else .error .noSuchControlWord

/-- The decoder: total on every word of either port. It looks at the word alone (R62). -/
def decode : PortWord → Except BadWord Instr
  | .command w => decodeCommand w
  | .control w => decodeControl w

/-- The direction bit (R5). -/
def Direction.bit : Direction → BitVec 1
  | .write => 0
  | .read => 1

/-- `w = match | (addr << 9) | (dir << 8) | data` (R63). -/
def encodeFields (mtch : CommandWord) (addr : Addr) (dir : Direction) (data : Byte) : CommandWord :=
  mtch ||| (addr.setWidth 20 <<< 9) ||| (dir.bit.setWidth 20 <<< 8) ||| data.setWidth 20

/-- Encoding, the inverse of decoding (R63), absent operands taken as zero and `dir` as the row fixes it. -/
def encode : Instr → PortWord
  | .init => .command (encodeFields initRow.mtch 0 .write 0)
  | .start addr dir => .command (encodeFields startRow.mtch addr dir 0)
  | .writeByte data => .command (encodeFields writeByteRow.mtch 0 .write data)
  | .readByte => .command (encodeFields readByteRow.mtch 0 .write 0)
  | .stop => .command (encodeFields stopRow.mtch 0 .write 0)
  | .writeTransaction addr data => .command (encodeFields writeTransactionRow.mtch addr .write data)
  | .readTransaction addr => .command (encodeFields readTransactionRow.mtch addr .read 0)
  | .cwStart => .control 0xA4
  | .cwClock => .control 0xC4
  | .cwStop => .control 0x94

/-- The word of an opcode-table row, as the table numbers its bits: 8 bits are a control word, up to 24 a 20-bit command word
whose bits above 19 must be zero. `none` where the bits fit no port. -/
def tableWord (nbits w : Nat) : Option PortWord :=
  if nbits ≤ 8 then
    if w < 256 then some (.control (BitVec.ofNat 8 w)) else none
  else if nbits ≤ 24 then
    if w < 1048576 then some (.command (BitVec.ofNat 20 w)) else none
  else none

/-- The instruction the decoder reads from a table word. -/
def decodeTableWord (nbits w : Nat) : Option Instr :=
  match tableWord nbits w with
  | none => none
  | some p => (decode p).toOption

end Sys2Proof
end

