-- ==== Sys2Proof/Machine/Params.lean ====
section
/-! DEFINITION. The parameters of spec/00_scope.md R5 that have a value, and the default `STATUS` table (spec/30_encoding.md R57). -/

namespace Sys2Proof.Machine

/-- `SCL_TARGET_HZ`: the target bus clock; no rule depends on it (R5). -/
def sclTargetHz : Nat := 100000

/-- `PRESCALER`: the number 1 (R5, R25, R70). -/
def prescaler : Byte := 0x01

/-- `NULL_PLACEHOLDER`: 0x00 (R5; the spec's decision D8). -/
def nullPlaceholder : Byte := 0x00

/-- `STATUS_MASK`: 0xF8 (R5, R75). -/
def statusMask : Byte := 0xF8

/-- The default `STATUS` table (R5, R57). -/
def defaultStatus : StatusTable where
  start := 0x08
  addrAckW := 0x18
  addrAckR := 0x40
  dataTxAck := 0x28
  dataRxAck := 0x50
  arbLost := 0x38
  dataTxNack := 0x30

/-- The configuration of `State.reset`: the default table, and a bit-rate divisor and a register base of which nothing is known. -/
def defaultConfig : Config where
  status := defaultStatus
  bitRateDivisor := Config.freeBitRateDivisor
  regBase := Config.freeRegBase

end Sys2Proof.Machine
end

