-- ==== Sys2Proof/Machine/State.lean ====
section
/-! DEFINITION. The state of the engine, of the controller's registers and of the environment behind them, and the state after reset (spec/10_state.md, spec/44_bus_environment.md, spec/70_reset_and_hazards.md R150 to R152). -/

namespace Sys2Proof.Machine

/-- `FSM`, the bus-status state register: six states (R11). -/
inductive Fsm
  | idle
  | started
  | addressSent
  | dataPhase
  | faulted
  | complete
  deriving DecidableEq, Repr

/-- The bus faults (R130). They are results of a command, not stops of the machine. -/
inductive BusFault
  | startFailed
  | addressNack
  | dataNack
  | readError
  | arbitrationLost
  deriving DecidableEq, Repr

/-- The five controller registers (R20, R31). -/
inductive Reg
  | cr
  | sr
  | dr
  | brr
  | psr
  deriving DecidableEq, Repr

/-- One register access of the engine (R17, R44). -/
inductive Event
  | wr (reg : Reg) (value : Byte)
  | rd (reg : Reg) (value : Byte)
  deriving DecidableEq, Repr

/-- `CUR`, the context of the command in flight (R16). -/
structure Cur where
  /-- `cmd`: the decoded command with its operand fields. -/
  cmd : Instr
  /-- `SEQ`: the number of the micro-step to perform next, as the command's rule numbers it. -/
  seq : Nat
  /-- `FLT`: the pending fault of a composite; `none` is the code 0. -/
  flt : Option BusFault
  /-- The byte a composite returns; 0x00 until one has been read (R52). -/
  ret : Byte
  deriving DecidableEq, Repr

/-- The content of the controller's registers (R20 to R25). A write by the engine stores its byte; under the oracle a read finds
what the environment has put there; RefBus keeps its `cw`, `sr`, `dr`, `brr` and `psr` here (R116). Log 14. -/
structure ControllerRegs where
  cr : Byte
  sr : Byte
  dr : Byte
  brr : Byte
  psr : Byte
  deriving DecidableEq, Repr

/-- The phase at which RefBus loses arbitration (R115 `arb_lose`). -/
inductive ArbLose
  | never
  | atStart
  | atAddr
  | atData
  deriving DecidableEq, Repr

/-- The configuration of RefBus (R115). -/
structure RefBusConfig where
  devAddr : Addr
  present : Bool
  nackAddr : Bool
  nackData : Bool
  failRead : Bool
  arbLose : ArbLose
  dead : Bool
  pollDelay : Nat
  srLow : BitVec 3
  devReg0 : Byte
  st : StatusTable
  deriving DecidableEq, Repr

/-- Who holds the bus under RefBus (R116 `phase`). -/
inductive Phase
  | free
  | owned
  | addrW
  | addrR
  | nacked
  | lost
  deriving DecidableEq, Repr

/-- A wire event of RefBus (R121). -/
inductive WireEvent
  /-- `S`, a START condition. -/
  | startCond
  /-- `P`, a STOP condition. -/
  | stopCond
  /-- `B(v, ack)`: the master sent `v`. -/
  | sent (v : Byte) (ack : Bool)
  /-- `R(v, ack)`: the master received `v`. -/
  | received (v : Byte) (ack : Bool)
  deriving DecidableEq, Repr

/-- `pend`: the outcome RefBus will show when its countdown has run out (R116, R118). -/
structure Pending where
  sr : Byte
  dr : Byte
  n : Nat
  deriving DecidableEq, Repr

/-- The state of RefBus beside the controller's registers (R116). -/
structure RefBusState where
  flag : Bool
  pend : Option Pending
  phase : Phase
  devReg : Byte
  wire : List WireEvent
  deriving DecidableEq, Repr

/-- The environment (R110, R113, R115). -/
inductive Env
  /-- The general oracle: the answers the environment will give, in order; when they are used up, free values. Log 3. -/
  | oracle (answers : List Byte)
  /-- RefBus, the reference environment. Log 4. -/
  | refBus (cfg : RefBusConfig) (st : RefBusState)
  deriving DecidableEq, Repr

/-- Everything on the far side of the register port (44_bus_environment.md, header). -/
structure Bus where
  ctl : ControllerRegs
  env : Env
  /-- How many free values have been taken (the model's own field, log 3). -/
  draws : Nat
  deriving DecidableEq, Repr

/-- What reaches the block from outside (R110, R126, R150): the caller's moves and the reset input. The model's own form, log 6. -/
inductive Input
  /-- The caller issues a word when no command is in flight; until then it is blocked (R110). -/
  | issue (w : CommandWord)
  /-- The caller issues a word unless the last result word carries a fault, in which case it skips this word (R66). Log 15. -/
  | issueUnlessFault (w : CommandWord)
  /-- A word is presented at once, whether or not a command is in flight (R136). -/
  | issueNow (w : CommandWord)
  /-- A control word is given to the adapter by itself, not by the caller. Log 7. -/
  | control (w : Byte)
  /-- The reset input rises after at most `k` more micro-steps of the command in flight (R150). -/
  | reset (k : Nat)
  /-- The caller issues a word, and the reset input rises after at most `k` micro-steps of it (R150). -/
  | issueThenReset (w : CommandWord) (k : Nat)
  deriving DecidableEq, Repr

/-- The machine: engine state, command in flight, history, result port, the bus behind the register port, what is still to come
from outside, and the configuration (R10, R16, R17, R52; INVENTORY.md, State). -/
structure State where
  /-- `FSM` (R11). -/
  fsm : Fsm
  /-- `TXB` (R12). -/
  txb : Byte
  /-- `RXB` (R13). -/
  rxb : Byte
  /-- `INITD` (R14). -/
  initd : Bool
  /-- `CUR` (R16); `none` between commands. -/
  cur : Option Cur
  /-- `HIST` (R17), oldest first. -/
  hist : List Event
  /-- The result port: the result word of the last command that was accepted, `none` while there is none. Log 10. -/
  res : Option ResultWord
  /-- The controller's registers and the environment (R20, R27). -/
  bus : Bus
  /-- What the caller and the reset input do next, in order. Log 6. -/
  inputs : List Input
  /-- The parameters (R5, R18): written by no step. -/
  cfg : Config
  deriving DecidableEq, Repr

/-- Reasons why a step stops with a fault. The bus faults of R130 are none of these: they are results (R139). -/
inductive Fault
  /-- `CUR` is at a micro-step its command does not have: a state no rule produces. Raised by the sequencer. Safe: log 11. -/
  | noSuchMicroStep
  deriving DecidableEq, Repr

/-- Reasons why a step is refused (R136): the spec gives the word no behaviour. All are safe: nothing is claimed of what follows. -/
inductive Refusal
  /-- An instruction without a meaning, rejected by name in `exec`. Safe. -/
  | notModelled (mnemonic : String)
  /-- An illegal encoding (R60). Raised by the port when the decoder gives no instruction. Safe. -/
  | illegalEncoding (why : BadWord)
  /-- Any command but INIT while `INITD == 0` (R97). Raised by the admission check. Safe. -/
  | notInitialised
  /-- A command the admission table does not admit in the current `FSM` (R97). Raised by the admission check. Safe. -/
  | notAdmitted
  /-- A word presented while a command is in flight (R16, R97, R136). Raised by the admission check and by the adapter's port. Safe. -/
  | commandInFlight
  deriving DecidableEq, Repr

/-- A machine with these parameters right after reset (R150, R152). What the spec leaves unspecified is a free value ("any value, never a fixed
zero", U1, U2): log 1 and 2. -/
def State.resetWith (cfg : Config) : State where
  fsm := .idle
  txb := Config.freeByte 0
  rxb := Config.freeByte 1
  initd := false
  cur := none
  hist := []
  res := none
  bus := {
    ctl := {
      cr := Config.freeByte 2
      sr := Config.freeByte 3
      dr := Config.freeByte 4
      brr := Config.freeByte 5
      psr := Config.freeByte 6 }
    env := .oracle []
    draws := 7 }
  inputs := []
  cfg := cfg

/-- The machine right after reset, with the default `STATUS` table (log 12). -/
def State.reset : State := State.resetWith defaultConfig

end Sys2Proof.Machine
end

