-- ==== Sys2Proof/Machine/Operands.lean ====
section
/-! DEFINITION. The values the engine assembles: the address-phase byte, the result word, and the numbers of its enumerations (spec/30_encoding.md R52, R55, R56; spec/10_state.md R11, R20; spec/60_exceptions.md R130). -/

namespace Sys2Proof.Machine

/-- The address-phase byte `AB = (zext_8(addr) << 1) | zext_8(dir)` (R55, R56). -/
def addressByte (addr : Addr) (dir : Direction) : Byte :=
  (addr.setWidth 8 <<< 1) ||| dir.bit.setWidth 8

/-- The encoding of `FSM` (R11). -/
def Fsm.code : Fsm → BitVec 3
  | .idle => 0
  | .started => 1
  | .addressSent => 2
  | .dataPhase => 3
  | .faulted => 4
  | .complete => 5

/-- The fault codes (R130). -/
def BusFault.code : BusFault → BitVec 4
  | .startFailed => 1
  | .addressNack => 2
  | .dataNack => 3
  | .readError => 4
  | .arbitrationLost => 5

/-- A result word: `fault` in bits 11 to 8, `data` in bits 7 to 0; `data` is 0x00 with any fault (R52). -/
def resultWord (flt : Option BusFault) (data : Byte) : ResultWord :=
  match flt with
  | none => (0 : BitVec 4) ++ data
  | some f => f.code ++ (0 : Byte)

/-- The `fault` field of a result word (R52). -/
def resultFault (r : ResultWord) : BitVec 4 := r.extractLsb' 8 4

/-- The `data` field of a result word (R52). -/
def resultData (r : ResultWord) : Byte := r.extractLsb' 0 8

/-- Register indices (R20, R31). -/
def Reg.index : Reg → Nat
  | .cr => 0
  | .sr => 1
  | .dr => 2
  | .brr => 3
  | .psr => 4

/-- The register of an index; indices 5 and above do not exist (R31). -/
def Reg.ofIndex : Nat → Option Reg
  | 0 => some .cr
  | 1 => some .sr
  | 2 => some .dr
  | 3 => some .brr
  | 4 => some .psr
  | _ => none

/-- The content of a controller register. -/
def ControllerRegs.get (r : Reg) (c : ControllerRegs) : Byte :=
  match r with
  | .cr => c.cr
  | .sr => c.sr
  | .dr => c.dr
  | .brr => c.brr
  | .psr => c.psr

/-- Storing a byte in a controller register. -/
def ControllerRegs.set (r : Reg) (v : Byte) (c : ControllerRegs) : ControllerRegs :=
  match r with
  | .cr => { c with cr := v }
  | .sr => { c with sr := v }
  | .dr => { c with dr := v }
  | .brr => { c with brr := v }
  | .psr => { c with psr := v }

end Sys2Proof.Machine
end

