-- ==== Sys2Proof/Machine/Flags.lean ====
section
/-! DEFINITION. The bits of `CR` and `SR`, the control words, the status code and the acknowledgement check (spec/10_state.md R21, R22; spec/30_encoding.md R54, R57, R58; spec/40_adapter_ops.md R75, R78). -/

namespace Sys2Proof.Machine

/-- `CR[7]`, `GO`: written 1 to trigger an action, read 1 on its completion (R21). -/
def goBit : Byte := 0x80
/-- `CR[6]`, `EA`: answer a received byte with ACK (R21). -/
def eaBit : Byte := 0x40
/-- `CR[5]`, `STA`: send a START condition (R21). -/
def staBit : Byte := 0x20
/-- `CR[4]`, `STO`: send a STOP condition (R21). -/
def stoBit : Byte := 0x10
/-- `CR[2]`, `EN`: enable bus (R21). -/
def enBit : Byte := 0x04
/-- `CR[0]`, `IE`: interrupt enable, never written 1 (R21, R140). -/
def ieBit : Byte := 0x01

/-- The three control words; no rule writes any other value to `CR` (R53, R54). -/
inductive ControlWord
  | start
  | clock
  | stop
  deriving DecidableEq, Repr

/-- The bits each control word sets (R54). -/
def ControlWord.byte : ControlWord → Byte
  | .start => goBit ||| staBit ||| enBit
  | .clock => goBit ||| eaBit ||| enBit
  | .stop => goBit ||| stoBit ||| enBit

/-- The test of the poll, `c[7] == 1` (R58, R75). -/
def completionFlag (c : Byte) : Bool := c.getLsbD 7

/-- The status code `s = v & 0xF8` of a byte read from `SR` (R22, R58, R75). -/
def statusCode (v : Byte) : Byte := v &&& statusMask

/-- `ADDR_ACK(dir)` (R57). -/
def addrAck (t : StatusTable) : Direction → Byte
  | .write => t.addrAckW
  | .read => t.addrAckR

/-- CHECK(`s`, `exp`, `kind`): `none` on a match; on a mismatch the fault, `ArbitrationLost` before the fault of the phase (R78, R137). -/
def checkStatus (t : StatusTable) (s exp : Byte) (kind : BusFault) : Option BusFault :=
  if s = exp then none
  else if s = t.arbLost then some .arbitrationLost
  else some kind

end Sys2Proof.Machine
end

