-- ==== Sys2Proof/Machine/RefBus.lean ====
section
/-! DEFINITION. RefBus, the reference environment: one controller and one device with one byte of storage (spec/44_bus_environment.md R115 to R123). -/

namespace Sys2Proof.Machine

/-- The multiples of 8, the values a status code can have (R58). -/
def allCodes : List Byte := (List.range 32).map fun k => BitVec.ofNat 8 (8 * k)

/-- The codes RefBus can report in place of one that the table makes an expected code: the multiples of 8 that are no entry of the table (R120). -/
def replacementCodes (t : StatusTable) : List Byte := allCodes.filter fun c => !t.entries.contains c

/-- A code RefBus reports for an outcome the engine does not expect: `code`, or, where the table makes it equal to an expected code,
"another multiple of 8 that is not" (R120). Which one the spec does not say: a free choice among them. Log 4. -/
def unexpectedCode (t : StatusTable) (code : Byte) : Byte :=
  if t.expected.contains code then
    ((replacementCodes t)[Config.freeIndex code.toNat % (replacementCodes t).length]?).getD code
  else code

/-- The initial state of RefBus (R116). -/
def RefBusState.initial (cfg : RefBusConfig) : RefBusState where
  flag := false
  pend := none
  phase := .free
  devReg := cfg.devReg0
  wire := []

/-- RefBus's initial register contents (R116). -/
def refBusRegs : ControllerRegs where
  cr := 0x00
  sr := 0xF8
  dr := 0xFF
  brr := 0x00
  psr := 0x00

/-- The bus of a machine run against RefBus from its initial state (R116). -/
def refBusInitial (cfg : RefBusConfig) : Bus where
  ctl := refBusRegs
  env := .refBus cfg (RefBusState.initial cfg)
  draws := 0

/-- "result `(s, d)`": nothing if `dead`, else pending with the countdown `poll_delay` (R118). -/
def RefBusState.result (cfg : RefBusConfig) (s d : Byte) (h : RefBusState) : RefBusState :=
  if cfg.dead then { h with pend := none } else { h with pend := some ⟨s, d, cfg.pollDelay⟩ }

/-- `wire += e` (R118 to R120). -/
def RefBusState.put (e : WireEvent) (h : RefBusState) : RefBusState :=
  { h with wire := h.wire ++ [e] }

/-- `phase <- p` (R118 to R120). -/
def RefBusState.goto (p : Phase) (h : RefBusState) : RefBusState :=
  { h with phase := p }

/-- RefBus's START action (R118); 0x10 is the code of a repeated START, in every table. -/
def RefBusState.startAction (cfg : RefBusConfig) (dr : Byte) (h : RefBusState) : RefBusState :=
  if cfg.arbLose = .atStart then (h.goto .lost).result cfg cfg.st.arbLost dr
  else if h.phase = .free then ((h.put .startCond).goto .owned).result cfg cfg.st.start dr
  else ((h.put .startCond).goto .owned).result cfg 0x10 dr

/-- RefBus's STOP action: complete at once, no completion is signalled (R119). -/
def RefBusState.stopAction (h : RefBusState) : RefBusState :=
  match h.phase with
  | .owned | .addrW | .addrR | .nacked => (h.put .stopCond).goto .free
  | .free | .lost => h.goto .free

/-- RefBus's byte action in `Owned`: `dr` is the address-phase byte (R120). -/
def RefBusState.addressAction (cfg : RefBusConfig) (dr : Byte) (h : RefBusState) : RefBusState :=
  if cfg.arbLose = .atAddr then (h.goto .lost).result cfg cfg.st.arbLost dr
  else
    let acked := cfg.present && dr.extractLsb' 1 7 == cfg.devAddr && !cfg.nackAddr
    let h' := h.put (.sent dr acked)
    match acked, dr.getLsbD 0 with
    | true, false => (h'.goto .addrW).result cfg cfg.st.addrAckW dr
    | true, true => (h'.goto .addrR).result cfg cfg.st.addrAckR dr
    | false, false => (h'.goto .nacked).result cfg (unexpectedCode cfg.st 0x20) dr
    | false, true => (h'.goto .nacked).result cfg (unexpectedCode cfg.st 0x48) dr

/-- RefBus's byte action in `AddrW`: the master transmits a data byte (R120). -/
def RefBusState.writeAction (cfg : RefBusConfig) (dr : Byte) (h : RefBusState) : RefBusState :=
  if cfg.arbLose = .atData then (h.goto .lost).result cfg cfg.st.arbLost dr
  else if !cfg.nackData then
    { (h.put (.sent dr true)) with devReg := dr }.result cfg cfg.st.dataTxAck dr
  else ((h.put (.sent dr false)).goto .nacked).result cfg cfg.st.dataTxNack dr

/-- RefBus's byte action in `AddrR`: the master receives a data byte; what was written to `DR` is not sent (R120). -/
def RefBusState.readAction (cfg : RefBusConfig) (w dr : Byte) (h : RefBusState) : RefBusState :=
  if cfg.arbLose = .atData then (h.goto .lost).result cfg cfg.st.arbLost dr
  else if cfg.failRead || !w.getLsbD 6 then
    ((h.put (.received h.devReg false)).goto .nacked).result cfg (unexpectedCode cfg.st 0x58) h.devReg
  else (h.put (.received h.devReg true)).result cfg cfg.st.dataRxAck h.devReg

/-- RefBus's byte action, by `phase` (R120). -/
def RefBusState.byteAction (cfg : RefBusConfig) (w dr : Byte) (h : RefBusState) : RefBusState :=
  match h.phase with
  | .owned => h.addressAction cfg dr
  | .addrW => h.writeAction cfg dr
  | .addrR => h.readAction cfg w dr
  | .free | .nacked | .lost => h.result cfg (unexpectedCode cfg.st 0x00) dr

/-- RefBus on `Wr(CR, w)`, the storing of `cw` apart (R118). -/
def RefBusState.control (cfg : RefBusConfig) (w dr : Byte) (h : RefBusState) : RefBusState :=
  if !w.getLsbD 7 || !w.getLsbD 2 then h
  else
    let h' := { h with flag := false, pend := none }
    if w.getLsbD 5 then h'.startAction cfg dr
    else if w.getLsbD 4 then h'.stopAction
    else h'.byteAction cfg w dr

/-- RefBus's hidden state on a write: only a write of `CR` changes it (R117, R118). `ctl` is the registers' content before the write. -/
def RefBusState.onWrite (cfg : RefBusConfig) (ctl : ControllerRegs) (r : Reg) (v : Byte) (h : RefBusState) : RefBusState :=
  match r with
  | .cr => h.control cfg v ctl.dr
  | .sr | .dr | .brr | .psr => h

/-- RefBus's registers on a write: `CR`, `DR`, `BRR` and `PSR` take the byte (R117, R118). A write of `SR`, which the engine never makes and for
which R117 gives no effect, changes nothing: `sr` changes only at a write of `CR` followed by a poll (R125). DEDUCED, log 19. -/
def refBusStore (r : Reg) (v : Byte) (ctl : ControllerRegs) : ControllerRegs :=
  match r with
  | .cr => ctl.set .cr v
  | .sr => ctl
  | .dr => ctl.set .dr v
  | .brr => ctl.set .brr v
  | .psr => ctl.set .psr v

/-- RefBus before it answers `Rd(CR)`: a pending outcome comes one poll nearer, and at the end of its countdown shows in `sr`, `dr` and
`flag` (R122). -/
def RefBusState.poll (ctl : ControllerRegs) (h : RefBusState) : ControllerRegs × RefBusState :=
  match h.pend with
  | none => (ctl, h)
  | some ⟨s, d, 0⟩ => ({ ctl with sr := s, dr := d }, { h with flag := true, pend := none })
  | some ⟨s, d, n + 1⟩ => (ctl, { h with pend := some ⟨s, d, n⟩ })

/-- The byte RefBus shows at `CR`: the last control word with bit 7 replaced by the flag and bit 4 read as 0 (R122). -/
def RefBusState.crByte (ctl : ControllerRegs) (h : RefBusState) : Byte :=
  (if h.flag then 0x80 else 0x00) ||| (ctl.cr &&& 0x6F)

/-- RefBus on a read: its answer, and what it has become (R122). -/
def RefBusState.onRead (cfg : RefBusConfig) (ctl : ControllerRegs) (r : Reg) (h : RefBusState) :
    Byte × ControllerRegs × RefBusState :=
  match r with
  | .cr => ((h.poll ctl).2.crByte (h.poll ctl).1, h.poll ctl)
  | .sr => ((ctl.sr &&& 0xF8) ||| cfg.srLow.setWidth 8, ctl, h)
  | .dr => (ctl.dr, ctl, h)
  | .brr => (ctl.brr, ctl, h)
  | .psr => (ctl.psr, ctl, h)

/-- `AckAll`: the defaults of R123. -/
def ackAll : RefBusConfig where
  devAddr := 0x20
  present := true
  nackAddr := false
  nackData := false
  failRead := false
  arbLose := .never
  dead := false
  pollDelay := 0
  srLow := 0
  devReg0 := 0x00
  st := defaultStatus

/-- The other named configurations of R123. -/
def ackAll42 : RefBusConfig := { ackAll with devReg0 := 0x42 }
def nackAddr : RefBusConfig := { ackAll with nackAddr := true }
def absent : RefBusConfig := { ackAll with present := false }
def nackData : RefBusConfig := { ackAll with nackData := true }
def failRead : RefBusConfig := { ackAll with failRead := true }
def arbStart : RefBusConfig := { ackAll with arbLose := .atStart }
def arbAddr : RefBusConfig := { ackAll with arbLose := .atAddr }
def arbData : RefBusConfig := { ackAll with arbLose := .atData }
def dead : RefBusConfig := { ackAll with dead := true }
def slow3 : RefBusConfig := { ackAll with pollDelay := 3 }
def lowBits : RefBusConfig := { ackAll with srLow := 7 }

end Sys2Proof.Machine
end

