-- ==== Sys2Proof/Machine/Ops.lean ====
section
/-! DEFINITION. The operations every command is made of: the register port (spec/20_memory.md R33, R34), the adapter's micro-operations (spec/40_adapter_ops.md R70 to R78), fault entry and exit (spec/60_exceptions.md R139, R141), admission (spec/43_bus_status_fsm.md R97) and reset (spec/70_reset_and_hazards.md R150). -/

namespace Sys2Proof.Machine

/-! ### The register port -/

/-- The environment answers `MemRead(reg, 1)`: the oracle with its next answer, or with a free value when it has none left (R113);
RefBus as R122 says. -/
def Bus.read (r : Reg) (b : Bus) : Byte × Bus :=
  match b.env with
  | .oracle (v :: rest) => (v, { b with ctl := b.ctl.set r v, env := .oracle rest })
  | .oracle [] =>
    (Config.freeByte b.draws,
      { b with ctl := b.ctl.set r (Config.freeByte b.draws), draws := b.draws + 1 })
  | .refBus cfg h =>
    ((h.onRead cfg b.ctl r).1,
      { b with ctl := (h.onRead cfg b.ctl r).2.1, env := .refBus cfg (h.onRead cfg b.ctl r).2.2 })

/-- The environment takes note of `MemWrite(reg, 1, v)` (R34, R112, R117, R118); RefBus keeps its `sr` on a write of `SR` (log 19). -/
def Bus.write (r : Reg) (v : Byte) (b : Bus) : Bus :=
  match b.env with
  | .oracle answers => { b with ctl := b.ctl.set r v, env := .oracle answers }
  | .refBus cfg h => { b with ctl := refBusStore r v b.ctl, env := .refBus cfg (h.onWrite cfg b.ctl r v) }

/-- Writing one field of State. -/
def State.withFsm (f : Fsm) (s : State) : State := { s with fsm := f }
def State.withTxb (v : Byte) (s : State) : State := { s with txb := v }
def State.withRxb (v : Byte) (s : State) : State := { s with rxb := v }
def State.withInitd (v : Bool) (s : State) : State := { s with initd := v }
def State.withCur (c : Option Cur) (s : State) : State := { s with cur := c }
def State.withRes (r : Option ResultWord) (s : State) : State := { s with res := r }
def State.withBus (b : Bus) (s : State) : State := { s with bus := b }
def State.withInputs (l : List Input) (s : State) : State := { s with inputs := l }

/-- Appending an event to `HIST` (R17, R44). -/
def State.record (e : Event) (s : State) : State := { s with hist := s.hist ++ [e] }

/-- `MemRead(reg, 1)`: the environment's answer, and the event `Rd(reg, v)` appended (R33). -/
def State.memRead (r : Reg) (s : State) : Byte × State :=
  ((s.bus.read r).1, (s.withBus (s.bus.read r).2).record (.rd r (s.bus.read r).1))

/-- `MemWrite(reg, 1, v)`: the environment takes note, the event `Wr(reg, v)` is appended (R34). -/
def State.memWrite (r : Reg) (v : Byte) (s : State) : State :=
  (s.withBus (s.bus.write r v)).record (.wr r v)

/-! ### The adapter's micro-operations -/

/-- The first write of CONFIGURE: the bit-rate divisor (R70). -/
def State.configureBitRate (s : State) : State := s.memWrite .brr s.cfg.bitRateDivisor

/-- The second write of CONFIGURE: the prescaler (R70). -/
def State.configurePrescaler (s : State) : State := s.memWrite .psr prescaler

/-- ASSERT(`w`): one write of `CR`; nothing is awaited (R71 to R74). -/
def State.assertWord (w : ControlWord) (s : State) : State := s.memWrite .cr w.byte

/-- WRITE_DATA(`b`): `TXB <- b; MemWrite(DR, 1, TXB)` (R76). -/
def State.writeData (b : Byte) (s : State) : State := (s.withTxb b).memWrite .dr b

/-- READ_DATA() into `RXB`: `RXB <- MemRead(DR, 1)` (R77, R84). -/
def State.readData (s : State) : State := (s.memRead .dr).2.withRxb (s.memRead .dr).1

/-- What one turn of AWAIT_COMPLETION gives (R75). -/
inductive Await
  /-- The poll saw the flag clear: the micro-step is to be repeated. -/
  | clear (s : State)
  /-- The poll saw the flag set, and the status register was read. -/
  | done (code : Byte) (s : State)

/-- One turn of AWAIT_COMPLETION: read `CR`; if bit 7 is 1 read `SR` once and mask it (R75). -/
def State.await (s : State) : Await :=
  let c := s.memRead .cr
  if completionFlag c.1 then
    let v := c.2.memRead .sr
    .done (statusCode v.1) v.2
  else .clear c.2

/-! ### Going on, returning, faults -/

/-- `SEQ <- n` in the context of the command in flight. -/
def State.goTo (c : Cur) (n : Nat) (s : State) : State := s.withCur (some { c with seq := n })

/-- `return`: the result word is produced and `CUR` is cleared (R52, R139). -/
def State.finish (flt : Option BusFault) (data : Byte) (s : State) : State :=
  (s.withCur none).withRes (some (resultWord flt data))

/-- The micro-step of a composite's closing STOP: 9 in WRITE_TRANSACTION, 10 in READ_TRANSACTION (R90, R91); a primitive has none (R81). -/
def closingStop : Instr → Option Nat
  | .init => none
  | .start _ _ => none
  | .writeByte _ => none
  | .readByte => none
  | .stop => none
  | .writeTransaction _ _ => some 9
  | .readTransaction _ => some 10
  | .cwStart => none
  | .cwClock => none
  | .cwStop => none

/-- Fault entry, `raise BusFault(kind)` (R139): `FSM <- Faulted`; a composite keeps the fault in `FLT` and goes to its closing STOP; a
primitive returns the result word `code(kind) ++ 0x00`. -/
def State.raiseBusFault (k : BusFault) (c : Cur) (s : State) : State :=
  match closingStop c.cmd with
  | some n => (s.withFsm .faulted).withCur (some { c with flt := some k, seq := n })
  | none => (s.withFsm .faulted).finish (some k) 0

/-- Where STOP leads: DataPhase to Complete, every other state to Idle (R85); from Faulted this is the fault exit (R141). -/
def fsmAfterStop : Fsm → Fsm
  | .dataPhase => .complete
  | .idle => .idle
  | .started => .idle
  | .addressSent => .idle
  | .faulted => .idle
  | .complete => .idle

/-- The body of STOP: assert `CW_STOP`, then the new `FSM` (R85). It is the only way out of Faulted but reset (R141). -/
def State.stopBody (s : State) : State :=
  (s.assertWord .stop).withFsm (fsmAfterStop s.fsm)

/-- What one micro-step gives: it went on (to the next micro-step, or the command has returned), the poll saw the flag clear and the
micro-step stands, or `CUR` was at no micro-step of its command (log 11). -/
inductive Micro
  | go (s : State)
  | wait (s : State)
  | bad

/-- AWAIT_COMPLETION and the CHECK that follows it, one micro-step of its rule: a match goes on with `onPass`, a mismatch raises the
fault (R75, R78). -/
def awaitAndCheck (exp : Byte) (kind : BusFault) (c : Cur) (onPass : State → State) (s : State) : Micro :=
  match s.await with
  | .clear s' => .wait s'
  | .done code s' =>
    match checkStatus s.cfg.status code exp kind with
    | none => .go (onPass s')
    | some k => .go (s'.raiseBusFault k c)

/-! ### Admission and reset -/

/-- The admission table (R97). In the column Started the answer is "no" but for INIT. -/
def admits : Instr → Fsm → Bool
  | .init, _ => true
  | .start _ _, f => f == .idle || f == .complete
  | .writeByte _, f => f == .addressSent || f == .dataPhase
  | .readByte, f => f == .addressSent || f == .dataPhase
  | .stop, f => f == .addressSent || f == .dataPhase || f == .faulted
  | .writeTransaction _ _, f => f == .idle || f == .complete
  | .readTransaction _, f => f == .idle || f == .complete
  | .cwStart, _ => false
  | .cwClock, _ => false
  | .cwStop, _ => false

/-- Whether a command may run while `INITD == 0`: INIT alone (R97). -/
def needsInit : Instr → Bool
  | .init => false
  | .start _ _ => true
  | .writeByte _ => true
  | .readByte => true
  | .stop => true
  | .writeTransaction _ _ => true
  | .readTransaction _ => true
  | .cwStart => true
  | .cwClock => true
  | .cwStop => true

/-- Taking a command: admitted, it becomes the command in flight at its first micro-step, and the result port is emptied; not admitted, it is
refused (R16, R97, R136; log 8, 10). -/
def accept (i : Instr) (s : State) : Host.Outcome State Fault Refusal :=
  if s.cur.isSome then .refused .commandInFlight
  else if needsInit i && !s.initd then .refused .notInitialised
  else if admits i s.fsm then
    .next ((s.withCur (some { cmd := i, seq := 1, flt := none, ret := 0x00 })).withRes none)
  else .refused .notAdmitted

/-- Reset of the engine (R150, R151): no register access; a command in flight is abandoned with no result word; `TXB` and `RXB` become
unspecified, that is fresh free values (log 9). The controller and the environment are not reset (R124). -/
def State.engineReset (s : State) : State :=
  { s with
    fsm := .idle
    txb := Config.freeByte s.bus.draws
    rxb := Config.freeByte (s.bus.draws + 1)
    initd := false
    cur := none
    hist := []
    res := none
    bus := { s.bus with draws := s.bus.draws + 2 } }

/-! ### Building a machine -/

/-- The machine of a configuration, right after reset, against the oracle; `none` for a configuration that fails the check: "The model must check, of
whatever `STATUS` table it is given" (R5; log 12). -/
def State.boot (cfg : Config) : Option State :=
  if cfg.wellFormed then some (State.resetWith cfg) else none

/-- The same against RefBus from its initial state, whose table must be "the same table the engine is configured with" (R115, contract K7). -/
def State.bootRefBus (cfg : Config) (rcfg : RefBusConfig) : Option State :=
  if cfg.wellFormed && rcfg.st == cfg.status then
    some ((State.resetWith cfg).withBus { refBusInitial rcfg with draws := (State.resetWith cfg).bus.draws })
  else none

end Sys2Proof.Machine
end

