-- ==== Sys2Proof/Machine/Adapter.lean ====
section
/-! DEFINITION. The meanings of the three control-word rows: ASSERT(`w`), one write of `CR` (spec/40_adapter_ops.md R71 to R74). They are micro-operations, not commands: no admission, no result word, no wait. -/

namespace Sys2Proof.Machine

/-- ASSERT(`CW_START`): `MemWrite(CR, 1, 0xA4)` (R72). -/
def execCwStart (s : State) : Host.Outcome State Fault Refusal := .next (s.assertWord .start)

/-- ASSERT(`CW_CLOCK`): `MemWrite(CR, 1, 0xC4)` (R73). -/
def execCwClock (s : State) : Host.Outcome State Fault Refusal := .next (s.assertWord .clock)

/-- ASSERT(`CW_STOP`): `MemWrite(CR, 1, 0x94)` (R74). -/
def execCwStop (s : State) : Host.Outcome State Fault Refusal := .next (s.assertWord .stop)

end Sys2Proof.Machine
end

