-- ==== Sys2Proof/Machine/Phases.lean ====
section
/-! DEFINITION. The micro-steps of the seven commands, numbered as their rules number them (spec/41_primitive_ops.md R80 to R85, spec/42_transaction_ops.md R90, R91). -/

namespace Sys2Proof.Machine

/-- INIT, micro-steps 1 and 2 (R80). -/
def initMicro (c : Cur) (s : State) : Micro :=
  match c.seq with
  | 1 => .go (s.configureBitRate.goTo c 2)
  | 2 => .go ((s.configurePrescaler.withInitd true).finish none 0)
  | _ => .bad

/-- The body of START, micro-steps 1 to 5; `done` is what follows its `return OK` (R82). -/
def startPhase (addr : Addr) (dir : Direction) (seq : Nat) (c : Cur) (done : State → State) (s : State) : Micro :=
  match seq with
  | 1 => .go ((s.assertWord .start).goTo c 2)
  | 2 => awaitAndCheck s.cfg.status.start .startFailed c (fun t => (t.withFsm .started).goTo c 3) s
  | 3 => .go ((s.writeData (addressByte addr dir)).goTo c 4)
  | 4 => .go ((s.assertWord .clock).goTo c 5)
  | 5 => awaitAndCheck (addrAck s.cfg.status dir) .addressNack c (fun t => done (t.withFsm .addressSent)) s
  | _ => .bad

/-- The body of WRITE_BYTE, micro-steps 1 to 3, in a command whose earlier parts have `base` micro-steps (R83). -/
def writePhase (data : Byte) (base seq : Nat) (c : Cur) (done : State → State) (s : State) : Micro :=
  match seq with
  | 1 => .go (((s.withFsm .dataPhase).writeData data).goTo c (base + 2))
  | 2 => .go ((s.assertWord .clock).goTo c (base + 3))
  | 3 => awaitAndCheck s.cfg.status.dataTxAck .dataNack c done s
  | _ => .bad

/-- The body of READ_BYTE, micro-steps 1 to 4, in a command whose earlier parts have `base` micro-steps (R84); `done` is what follows its
`return OK(RXB)`. -/
def readPhase (base seq : Nat) (c : Cur) (done : State → State) (s : State) : Micro :=
  match seq with
  | 1 => .go (((s.withFsm .dataPhase).writeData nullPlaceholder).goTo c (base + 2))
  | 2 => .go ((s.assertWord .clock).goTo c (base + 3))
  | 3 => awaitAndCheck s.cfg.status.dataRxAck .readError c (fun t => t.goTo c (base + 4)) s
  | 4 => .go (done s.readData)
  | _ => .bad

/-- START (R82). -/
def startMicro (addr : Addr) (dir : Direction) (c : Cur) (s : State) : Micro :=
  startPhase addr dir c.seq c (fun t => t.finish none 0) s

/-- WRITE_BYTE (R83). -/
def writeByteMicro (data : Byte) (c : Cur) (s : State) : Micro :=
  writePhase data 0 c.seq c (fun t => t.finish none 0) s

/-- READ_BYTE (R84). -/
def readByteMicro (c : Cur) (s : State) : Micro :=
  readPhase 0 c.seq c (fun t => t.finish none t.rxb) s

/-- STOP, its one micro-step (R85). -/
def stopMicro (c : Cur) (s : State) : Micro :=
  match c.seq with
  | 1 => .go (s.stopBody.finish none 0)
  | _ => .bad

/-- WRITE_TRANSACTION: START (1 to 5), WRITE_BYTE (6 to 8), STOP on every path (9) (R90). -/
def writeTransactionMicro (addr : Addr) (data : Byte) (c : Cur) (s : State) : Micro :=
  match c.seq with
  | 6 => writePhase data 5 1 c (fun t => t.goTo c 9) s
  | 7 => writePhase data 5 2 c (fun t => t.goTo c 9) s
  | 8 => writePhase data 5 3 c (fun t => t.goTo c 9) s
  | 9 => .go (s.stopBody.finish c.flt c.ret)
  | n => startPhase addr .write n c (fun t => t.goTo c 6) s

/-- READ_TRANSACTION: START (1 to 5), READ_BYTE (6 to 9), STOP on every path (10) (R91). -/
def readTransactionMicro (addr : Addr) (c : Cur) (s : State) : Micro :=
  match c.seq with
  | 6 => readPhase 5 1 c (fun t => t) s
  | 7 => readPhase 5 2 c (fun t => t) s
  | 8 => readPhase 5 3 c (fun t => t) s
  | 9 => readPhase 5 4 c (fun t => t.withCur (some { c with seq := 10, ret := t.rxb })) s
  | 10 => .go (s.stopBody.finish c.flt c.ret)
  | n => startPhase addr .read n c (fun t => t.goTo c 6) s

end Sys2Proof.Machine
end

