-- ==== Sys2Proof/Machine/Sequencer.lean ====
section
/-! DEFINITION. The sequencer: the next micro-step of the command in flight, and how many of them one step of the model performs (spec/40_adapter_ops.md R79, spec/43_bus_status_fsm.md R103; log 5). -/

namespace Sys2Proof.Machine

/-- The next micro-step of the command in flight (R16, R103). A control word is never in flight (R51). -/
def microStep (c : Cur) (s : State) : Micro :=
  match c.cmd with
  | .init => initMicro c s
  | .start addr dir => startMicro addr dir c s
  | .writeByte data => writeByteMicro data c s
  | .readByte => readByteMicro c s
  | .stop => stopMicro c s
  | .writeTransaction addr data => writeTransactionMicro addr data c s
  | .readTransaction addr => readTransactionMicro addr c s
  | .cwStart => .bad
  | .cwClock => .bad
  | .cwStop => .bad

/-- The longest command has ten micro-steps (R91). -/
def microSteps : Nat := 10

/-- At most `n` micro-steps of the command in flight, up to its return or to a poll that sees the flag clear. The poll is "the sole suspension
point in the system" (R75); every read is a draw of its own (R79). -/
def runToWait : Nat → State → Host.Outcome State Fault Refusal
  | 0, s => .next s
  | n + 1, s =>
    match s.cur with
    | none => .next s
    | some c =>
      match microStep c s with
      | .go s' => runToWait n s'
      | .wait s' => .next s'
      | .bad => .fault .noSuchMicroStep

/-- Exactly `n` micro-steps of the command in flight, each turn of a poll counted as one, or fewer if it returns before: what has happened when
a reset falls in the middle of a command (R150, log 9). -/
def runFor : Nat → State → Host.Outcome State Fault Refusal
  | 0, s => .next s
  | n + 1, s =>
    match s.cur with
    | none => .next s
    | some c =>
      match microStep c s with
      | .go s' => runFor n s'
      | .wait s' => runFor n s'
      | .bad => .fault .noSuchMicroStep

/-- Going on with the command in flight: its poll reads `CR` once more, and so on. With no command in flight nothing happens. -/
def resume (s : State) : Host.Outcome State Fault Refusal := runToWait microSteps s

/-- A command is taken and runs to its return or to its first poll that sees the flag clear. -/
def issue (i : Instr) (s : State) : Host.Outcome State Fault Refusal :=
  match accept i s with
  | .next s' => resume s'
  | .fault r => .fault r
  | .refused r => .refused r

/-- A command is taken, at most `k` micro-steps of it are performed, and the reset input rises (R150; log 9). -/
def issueThenReset (i : Instr) (k : Nat) (s : State) : Host.Outcome State Fault Refusal :=
  match accept i s with
  | .next s' =>
    match runFor k s' with
    | .next s'' => .next s''.engineReset
    | .fault r => .fault r
    | .refused r => .refused r
  | .fault r => .fault r
  | .refused r => .refused r

/-- At most `k` micro-steps of the command in flight, then the reset input rises (R150; log 9). -/
def resetAfter (k : Nat) (s : State) : Host.Outcome State Fault Refusal :=
  match runFor k s with
  | .next s' => .next s'.engineReset
  | .fault r => .fault r
  | .refused r => .refused r

end Sys2Proof.Machine
end

