-- ==== Sys2Proof/Machine/Composite.lean ====
section
/-! DEFINITION. The meanings of the two composite commands (spec/42_transaction_ops.md). Their micro-steps stand in Machine/Phases.lean. -/

namespace Sys2Proof.Machine

/-- WRITE_TRANSACTION addr, data (R90): START, WRITE_BYTE, and STOP on every path that returns (R92). -/
def execWriteTransaction (addr : Addr) (data : Byte) (s : State) : Host.Outcome State Fault Refusal :=
  issue (.writeTransaction addr data) s

/-- READ_TRANSACTION addr (R91): START, READ_BYTE, and STOP on every path that returns (R92). -/
def execReadTransaction (addr : Addr) (s : State) : Host.Outcome State Fault Refusal := issue (.readTransaction addr) s

end Sys2Proof.Machine
end

