-- ==== Sys2Proof/Machine/Primitive.lean ====
section
/-! DEFINITION. The meanings of the five primitive commands (spec/41_primitive_ops.md). Their micro-steps stand in Machine/Phases.lean. -/

namespace Sys2Proof.Machine

/-- INIT (R80): admitted in every `FSM`; writes `BRR` and `PSR`, sets `INITD`; result word 0x000. -/
def execInit (s : State) : Host.Outcome State Fault Refusal := issue .init s

/-- START addr, dir (R82): START condition and address phase. -/
def execStart (addr : Addr) (dir : Direction) (s : State) : Host.Outcome State Fault Refusal := issue (.start addr dir) s

/-- WRITE_BYTE data (R83): one write data phase. -/
def execWriteByte (data : Byte) (s : State) : Host.Outcome State Fault Refusal := issue (.writeByte data) s

/-- READ_BYTE (R84): one read data phase. -/
def execReadByte (s : State) : Host.Outcome State Fault Refusal := issue .readByte s

/-- STOP (R85): the STOP condition, not awaited; the fault exit (R141). -/
def execStop (s : State) : Host.Outcome State Fault Refusal := issue .stop s

end Sys2Proof.Machine
end

