-- ==== Sys2Proof/Machine/Dispatch.lean ====
section
/-! DEFINITION. The meaning of every instruction: one arm per constructor of Instr. -/

namespace Sys2Proof.Machine

def exec (i : Instr) (s : State) : Host.Outcome State Fault Refusal :=
  match i with
  | .init => Sys2Proof.Machine.execInit s
  | .start addr dir => Sys2Proof.Machine.execStart addr dir s
  | .writeByte data => Sys2Proof.Machine.execWriteByte data s
  | .readByte => Sys2Proof.Machine.execReadByte s
  | .stop => Sys2Proof.Machine.execStop s
  | .writeTransaction addr data => Sys2Proof.Machine.execWriteTransaction addr data s
  | .readTransaction addr => Sys2Proof.Machine.execReadTransaction addr s
  | .cwStart => Sys2Proof.Machine.execCwStart s
  | .cwClock => Sys2Proof.Machine.execCwClock s
  | .cwStop => Sys2Proof.Machine.execCwStop s

end Sys2Proof.Machine
end

