-- ==== Sys2Proof/Machine/Port.lean ====
section
/-! DEFINITION. What the block does with what reaches it from outside (spec/44_bus_environment.md R110, R126; spec/60_exceptions.md R136; spec/70_reset_and_hazards.md R150; log 6). -/

namespace Sys2Proof.Machine

/-- A word at the port: decoded and run, or refused as an illegal encoding (R60, R136). Decoding comes before the admission check, so an illegal word is refused as
illegal with a command in flight as well (log 8). -/
def runWord (p : PortWord) (s : State) : Host.Outcome State Fault Refusal :=
  match decode p with
  | .ok i => exec i s
  | .error why => .refused (.illegalEncoding why)

/-- Whether the result port carries a fault (R52). -/
def State.reportsFault (s : State) : Bool :=
  match s.res with
  | none => false
  | some r => resultFault r != 0

/-- A command word that a reset follows after at most `k` micro-steps (R150). -/
def runWordThenReset (w : CommandWord) (k : Nat) (s : State) : Host.Outcome State Fault Refusal :=
  match decodeCommand w with
  | .ok i => issueThenReset i k s
  | .error why => .refused (.illegalEncoding why)

/-- Takes the first of the inputs, `rest` being those after it. While a command is in flight a blocked caller waits and the engine goes on
(R110); a word that is presented all the same is refused (R136). -/
def takeInput (i : Input) (rest : List Input) (s : State) : Host.Outcome State Fault Refusal :=
  match i with
  | .issue w =>
    if s.cur.isSome then resume s else runWord (.command w) (s.withInputs rest)
  | .issueUnlessFault w =>
    if s.cur.isSome then resume s
    else if s.reportsFault then .next (s.withInputs rest)
    else runWord (.command w) (s.withInputs rest)
  | .issueNow w => runWord (.command w) (s.withInputs rest)
  | .control w =>
    if s.cur.isSome then .refused .commandInFlight else runWord (.control w) (s.withInputs rest)
  | .reset k => resetAfter k (s.withInputs rest)
  | .issueThenReset w k =>
    if s.cur.isSome then resume s else runWordThenReset w k (s.withInputs rest)

/-- The input that presents a table word at once; a word that fits no port is presented as the all-zero command word, which is illegal (R60). -/
def inputOfTableWord (nbits w : Nat) : Input :=
  match tableWord nbits w with
  | some (.command c) => .issueNow c
  | some (.control c) => .control c
  | none => .issueNow 0

end Sys2Proof.Machine
end

