-- ==== Sys2Proof/Machine/Step.lean ====
section
/-! DEFINITION. One step of the machine (log 5, 6). -/

namespace Sys2Proof.Machine

/-- One step: the next input is taken, or, with none left, the command in flight goes on; with neither, the engine waits for a command
(R150) and nothing changes (log 17). -/
def step (s : State) : Host.Outcome State Fault Refusal :=
  match s.inputs with
  | [] => resume s
  | i :: rest => takeInput i rest s

/-- `s` with a table word as the very next input: a word at the command port, or a control word at the adapter (log 6, 7, 8). -/
def State.withFetchWord (s : State) (nbits w : Nat) : State :=
  s.withInputs (inputOfTableWord nbits w :: s.inputs)

end Sys2Proof.Machine
end

