-- ==== Sys2Proof/Machine/Assembler.lean ====
section
/-! DEFINITION. The assembly syntax and the pseudo-instructions (spec/30_encoding.md R64 to R66), beside the machine: no step uses it. -/

namespace Sys2Proof.Machine

/-- The commands a line stands for; `none` if an operand does not fit its field (R64, R65). A pseudo-instruction gives the commands of its
expansion (R66). -/
def assemble (l : AsmLine) : Option (List Instr) :=
  if l.wellFormed then
    some (match l with
      | .init => [.init]
      | .start a d => [.start (BitVec.ofNat 7 a) d]
      | .writeByte b => [.writeByte (BitVec.ofNat 8 b)]
      | .readByte => [.readByte]
      | .stop => [.stop]
      | .writeTransaction a b => [.writeTransaction (BitVec.ofNat 7 a) (BitVec.ofNat 8 b)]
      | .readTransaction a => [.readTransaction (BitVec.ofNat 7 a)]
      | .writeReg a r b =>
        [.start (BitVec.ofNat 7 a) .write, .writeByte (BitVec.ofNat 8 r), .writeByte (BitVec.ofNat 8 b), .stop]
      | .probe a d => [.start (BitVec.ofNat 7 a) d, .stop])
  else none

/-- The command word of a command; the control words have none (R51). -/
def commandWord? (i : Instr) : Option CommandWord :=
  match encode i with
  | .command w => some w
  | .control _ => none

/-- A pseudo-instruction: a line that stands for several commands (R66). -/
def isExpansion : AsmLine → Bool
  | .init => false
  | .start _ _ => false
  | .writeByte _ => false
  | .readByte => false
  | .stop => false
  | .writeTransaction _ _ => false
  | .readTransaction _ => false
  | .writeReg _ _ _ => true
  | .probe _ _ => true

/-- A data phase: what the caller leaves out after a fault in an expansion (R66). -/
def isDataPhase : Instr → Bool
  | .init => false
  | .start _ _ => false
  | .writeByte _ => true
  | .readByte => true
  | .stop => false
  | .writeTransaction _ _ => false
  | .readTransaction _ => false
  | .cwStart => false
  | .cwClock => false
  | .cwStop => false

/-- How the caller issues a command: in an expansion a data phase is skipped after a fault, and STOP is issued all the same (R66; log 15); a command that
stands by itself is issued whatever came before. -/
def callerInput (expansion : Bool) (i : Instr) : Option Input :=
  (commandWord? i).map fun w => if expansion && isDataPhase i then .issueUnlessFault w else .issue w

/-- The caller's moves for a line (R66). -/
def lineInputs (l : AsmLine) : Option (List Input) :=
  (assemble l).bind fun is => is.mapM (callerInput (isExpansion l))

/-- White space between the parts of a line. -/
def isBlank (c : Char) : Bool := c == ' ' || c == '\t'

/-- A line without its comment: `;` starts one (R64). -/
def withoutComment (cs : List Char) : List Char := cs.takeWhile (· != ';')

/-- The parts of a line: separated by blanks, a comma being a part of its own (R64: "mnemonic then comma-separated operands"). -/
def tokens (cs : List Char) : List (List Char) :=
  let spaced := (withoutComment cs).flatMap fun c => if c == ',' then [' ', ',', ' '] else [c]
  (spaced.foldr
    (fun c acc => if isBlank c then [] :: acc else
      match acc with
      | [] => [[c]]
      | t :: ts => (c :: t) :: ts)
    [[]]).filter (· != [])

/-- The value of a digit. -/
def digitValue (c : Char) : Nat :=
  if c.isDigit then c.toNat - '0'.toNat
  else if 'a' ≤ c && c ≤ 'f' then c.toNat - 'a'.toNat + 10
  else c.toNat - 'A'.toNat + 10

def isHexDigit (c : Char) : Bool :=
  c.isDigit || ('a' ≤ c && c ≤ 'f') || ('A' ≤ c && c ≤ 'F')

/-- The number digits denote in a base. -/
def digitsValue (base : Nat) (cs : List Char) : Nat := cs.foldl (fun n c => base * n + digitValue c) 0

/-- A number in decimal or `0x` hexadecimal (R65). -/
def number? : List Char → Option Nat
  | '0' :: 'x' :: ds => if ds != [] && ds.all isHexDigit then some (digitsValue 16 ds) else none
  | ds => if ds != [] && ds.all Char.isDigit then some (digitsValue 10 ds) else none

/-- `W` and `R` are the two directions (R65). -/
def direction? : List Char → Option Direction
  | ['W'] => some .write
  | ['R'] => some .read
  | _ => none

/-- A line of assembly; `some none` is a line that holds no command, `none` a line that is no assembly (R64, R66). Log 18. -/
def parseLine (line : String) : Option (Option AsmLine) :=
  match tokens line.toList with
  | [] => some none
  | [m] =>
    if m == "INIT".toList then some (some .init)
    else if m == "READ_BYTE".toList then some (some .readByte)
    else if m == "STOP".toList then some (some .stop)
    else none
  | [m, a] =>
    if m == "WRITE_BYTE".toList then (number? a).map fun b => some (.writeByte b)
    else if m == "READ_TRANSACTION".toList then (number? a).map fun n => some (.readTransaction n)
    else none
  | [m, a, [','], b] =>
    if m == "START".toList then
      (number? a).bind fun n => (direction? b).map fun d => some (.start n d)
    else if m == "PROBE".toList then
      (number? a).bind fun n => (direction? b).map fun d => some (.probe n d)
    else if m == "WRITE_TRANSACTION".toList then
      (number? a).bind fun n => (number? b).map fun v => some (.writeTransaction n v)
    else none
  | [m, a, [','], r, [','], b] =>
    if m == "WRITE_REG".toList then
      (number? a).bind fun n => (number? r).bind fun v => (number? b).map fun x => some (.writeReg n v x)
    else none
  | _ => none

/-- The name of a fault, as a result is written (R65). -/
def BusFault.name : BusFault → String
  | .startFailed => "StartFailed"
  | .addressNack => "AddressNack"
  | .dataNack => "DataNack"
  | .readError => "ReadError"
  | .arbitrationLost => "ArbitrationLost"

/-- Whether a command returns a byte (R52). -/
def returnsByte : Instr → Bool
  | .init => false
  | .start _ _ => false
  | .writeByte _ => false
  | .readByte => true
  | .stop => false
  | .writeTransaction _ _ => false
  | .readTransaction _ => true
  | .cwStart => false
  | .cwClock => false
  | .cwStop => false

/-- The fault of a fault field; 0 is OK, 6 to 15 are never produced (R52). -/
def faultOfField (f : BitVec 4) : Option BusFault :=
  match f.toNat with
  | 1 => some .startFailed
  | 2 => some .addressNack
  | 3 => some .dataNack
  | 4 => some .readError
  | 5 => some .arbitrationLost
  | _ => none

/-- A hexadecimal digit of a result, in capitals. -/
def hexDigit (n : Nat) : Char := if n < 10 then Char.ofNat (n + 48) else Char.ofNat (n + 55)

/-- The result of a command as it is written: `-> OK`, `-> OK(0x42)`, `-> StartFailed` and so on (R65). -/
def resultText (i : Instr) (r : ResultWord) : String :=
  match faultOfField (resultFault r) with
  | some f => "-> " ++ f.name
  | none =>
    if returnsByte i then
      "-> OK(0x" ++ String.ofList [hexDigit ((resultData r).toNat / 16), hexDigit ((resultData r).toNat % 16)] ++ ")"
    else "-> OK"

end Sys2Proof.Machine
end

