-- ==== Sys2Proof/Machine/Trace.lean ====
section
/-! DEFINITION. What can be read off the event history: the writes, the polls left out, and the intent trace (spec/20_memory.md R44, spec/44_bus_environment.md R121). -/

namespace Sys2Proof.Machine

/-- An event of the intent trace (R121). -/
inductive IntentEvent
  /-- `S`: `Wr(CR, CW_START)`. -/
  | startCond
  /-- `C(v)`: `Wr(CR, CW_CLOCK)`, with the value of the nearest preceding `Wr(DR, v)`; `none` if there is none, which no rule produces (R39). -/
  | clock (v : Option Byte)
  /-- `P`: `Wr(CR, CW_STOP)`. -/
  | stopCond
  deriving DecidableEq, Repr

/-- The scan that gives the intent trace, `last` being the value last written to `DR` (R121). -/
def intentScan (last : Option Byte) : List Event → List IntentEvent
  | [] => []
  | .wr .dr v :: es => intentScan (some v) es
  | .wr .cr w :: es =>
    if w = ControlWord.start.byte then .startCond :: intentScan last es
    else if w = ControlWord.clock.byte then .clock last :: intentScan last es
    else if w = ControlWord.stop.byte then .stopCond :: intentScan last es
    else intentScan last es
  | .wr .sr _ :: es => intentScan last es
  | .wr .brr _ :: es => intentScan last es
  | .wr .psr _ :: es => intentScan last es
  | .rd _ _ :: es => intentScan last es

/-- The intent trace of a history (R121). -/
def intentTrace (h : List Event) : List IntentEvent := intentScan none h

/-- An event that is no poll. -/
def Event.isPoll : Event → Bool
  | .rd .cr _ => true
  | .rd .sr _ => false
  | .rd .dr _ => false
  | .rd .brr _ => false
  | .rd .psr _ => false
  | .wr _ _ => false

/-- A history with its polls removed: what a claim about "what the engine sent" is stated over (R44). -/
def withoutPolls (h : List Event) : List Event := h.filter fun e => !e.isPoll

/-- How often a control word has been asserted. -/
def countAsserts (w : ControlWord) (h : List Event) : Nat := h.count (.wr .cr w.byte)

end Sys2Proof.Machine
end

