-- ==== Sys2Proof/Safety.lean ====
section
/-! DEFINITION. The terms claims are stated in: what the environment answers, the invariants of the engine, the discipline of the register port, the environment assumption Responsive, and how a run ends. -/

namespace Sys2Proof.Machine

/-! ### What the environment answers -/

/-- One read of `CR` returns `c` with the completion flag set, the following read of `SR` returns `v`, and the bus is then `b'`: the poll ends at
its first turn (R75). -/
def Bus.Answers (b : Bus) (c v : Byte) (b' : Bus) : Prop :=
  (b.read .cr).1 = c ∧ completionFlag c = true ∧ (b.read .cr).2.read .sr = (v, b')

/-- One read of `CR` returns `c` with the completion flag clear, and the bus is then `b'`: the poll goes on (R75). -/
def Bus.Busy (b : Bus) (c : Byte) (b' : Bus) : Prop :=
  b.read .cr = (c, b') ∧ completionFlag c = false

/-- The bus after `n` reads of `CR`. -/
def Bus.afterPolls : Nat → Bus → Bus
  | 0, b => b
  | n + 1, b => Bus.afterPolls n (b.read .cr).2

/-- A register access, as the environment sees it (R112, R113). -/
inductive Access
  | read (r : Reg)
  | write (r : Reg) (v : Byte)
  deriving DecidableEq, Repr

/-- The bus after an access. -/
def Bus.access (a : Access) (b : Bus) : Bus :=
  match a with
  | .read r => (b.read r).2
  | .write r v => b.write r v

/-- The bus after a list of accesses, in order. -/
def Bus.accesses (l : List Access) (b : Bus) : Bus := l.foldl (fun b a => b.access a) b

/-- `Responsive` (R114): whatever has been accessed before, once a START or a byte action has been asserted some poll sees the flag set. An
assumption on the environment, a premise wherever it is used. -/
def Bus.Responsive (b : Bus) : Prop :=
  ∀ (l : List Access) (w : ControlWord), w ≠ .stop →
    ∃ n, completionFlag (((((b.accesses l).write .cr w.byte).afterPolls n).read .cr).1) = true

/-- The machine is run against RefBus configured as `cfg`, now in state `h` (R115, R116). -/
def Bus.isRefBus (b : Bus) (cfg : RefBusConfig) (h : RefBusState) : Prop := b.env = .refBus cfg h

/-- The fault a failed check raises: `ArbitrationLost` if the code is `ST_ARB_LOST`, else the fault of the phase (R135, R137). -/
def phaseFault (t : StatusTable) (code : Byte) (kind : BusFault) : BusFault :=
  if code = t.arbLost then .arbitrationLost else kind

/-- The code a command expects at one of its waits, and the fault of the phase (R82, R83, R84, R90, R91). -/
def expectedAt (t : StatusTable) (i : Instr) (seq : Nat) : Option (Byte × BusFault) :=
  match i, seq with
  | .start _ _, 2 => some (t.start, .startFailed)
  | .start _ dir, 5 => some (addrAck t dir, .addressNack)
  | .writeByte _, 3 => some (t.dataTxAck, .dataNack)
  | .readByte, 3 => some (t.dataRxAck, .readError)
  | .writeTransaction _ _, 2 => some (t.start, .startFailed)
  | .writeTransaction _ _, 5 => some (addrAck t .write, .addressNack)
  | .writeTransaction _ _, 8 => some (t.dataTxAck, .dataNack)
  | .readTransaction _, 2 => some (t.start, .startFailed)
  | .readTransaction _, 5 => some (addrAck t .read, .addressNack)
  | .readTransaction _, 8 => some (t.dataRxAck, .readError)
  | _, _ => none

/-! ### Admission -/

/-- A command that is admitted (R97): no command in flight, initialised (but for INIT), and "yes" in the admission table. -/
def Admitted (i : Instr) (s : State) : Prop :=
  s.cur = none ∧ (i ≠ .init → s.initd = true) ∧
    match i with
    | .init => True
    | .start _ _ => s.fsm = .idle ∨ s.fsm = .complete
    | .writeByte _ => s.fsm = .addressSent ∨ s.fsm = .dataPhase
    | .readByte => s.fsm = .addressSent ∨ s.fsm = .dataPhase
    | .stop => s.fsm = .addressSent ∨ s.fsm = .dataPhase ∨ s.fsm = .faulted
    | .writeTransaction _ _ => s.fsm = .idle ∨ s.fsm = .complete
    | .readTransaction _ => s.fsm = .idle ∨ s.fsm = .complete
    | .cwStart => False
    | .cwClock => False
    | .cwStop => False

/-! ### The invariant of the engine -/

/-- Where a command can stand at the end of a step: at a wait of its rule, with the `FSM` of R104. -/
def waitsAt (i : Instr) (seq : Nat) (f : Fsm) : Prop :=
  match i with
  | .init => False
  | .start _ _ => (seq = 2 ∧ (f = .idle ∨ f = .complete)) ∨ (seq = 5 ∧ f = .started)
  | .writeByte _ => seq = 3 ∧ f = .dataPhase
  | .readByte => seq = 3 ∧ f = .dataPhase
  | .stop => False
  | .writeTransaction _ _ =>
    (seq = 2 ∧ (f = .idle ∨ f = .complete)) ∨ (seq = 5 ∧ f = .started) ∨ (seq = 8 ∧ f = .dataPhase)
  | .readTransaction _ =>
    (seq = 2 ∧ (f = .idle ∨ f = .complete)) ∨ (seq = 5 ∧ f = .started) ∨ (seq = 8 ∧ f = .dataPhase)
  | .cwStart => False
  | .cwClock => False
  | .cwStop => False

/-- What holds of the engine between steps (R16, R52, R97, R99, R104). -/
structure EngineInv (s : State) : Prop where
  /-- Started is no state of a command boundary (R99). -/
  boundary : s.cur = none → s.fsm ≠ .started
  /-- A command in flight stands at one of its waits (R104), with no pending fault and nothing to return yet. -/
  inFlight : ∀ c, s.cur = some c → waitsAt c.cmd c.seq s.fsm ∧ c.flt = none ∧ c.ret = 0x00
  /-- A command in flight has produced no result word (R52). -/
  noResult : s.cur ≠ none → s.res = none
  /-- Before INIT nothing is in flight and no transaction is open (R97). -/
  beforeInit : s.initd = false → s.cur = none ∧ s.fsm = .idle
  /-- Result words carry 0 or a code of R130, and no data with a fault (R52). -/
  result : ∀ r, s.res = some r → ∃ flt b, r = resultWord flt b
  /-- The configuration passes the check of R5. -/
  config : s.cfg.wellFormed = true

/-! ### The discipline of the register port -/

/-- An access the engine can make: it never writes `SR`, never reads `BRR` or `PSR`, and writes to `CR` only the three control words
(R33, R34, R53). -/
def Event.allowed : Event → Bool
  | .wr .cr w => w == ControlWord.start.byte || w == ControlWord.clock.byte || w == ControlWord.stop.byte
  | .wr .sr _ => false
  | .wr .dr _ => true
  | .wr .brr _ => true
  | .wr .psr v => v == prescaler
  | .rd .cr _ => true
  | .rd .sr _ => true
  | .rd .dr _ => true
  | .rd .brr _ => false
  | .rd .psr _ => false

/-- Nothing but the caller's words and reset reaches the block: no control word is given to the adapter from outside (log 7). -/
def CallerOnly (l : List Input) : Prop := ∀ i ∈ l, ∀ w, i ≠ .control w

/-- The two orderings of R39, `prev` being the event before the list: each `Wr(CR, CW_CLOCK)` directly after a `Wr(DR, b)`, each `Rd(SR, s)` directly
after an `Rd(CR, c)` with `c[7] == 1`. -/
def accessOrder (prev : Option Event) : List Event → Bool
  | [] => true
  | e :: es =>
    (match e, prev with
      | .wr .cr _, some (.wr .dr _) => true
      | .wr .cr w, _ => w != ControlWord.clock.byte
      | .rd .sr _, some (.rd .cr c) => completionFlag c
      | .rd .sr _, _ => false
      | _, _ => true) && accessOrder (some e) es

/-- What an observer of the register port knows of the transaction (R100). -/
inductive Seen
  /-- No transaction is open. -/
  | closed
  /-- `CW_START` is written, its status not yet read. -/
  | startAsserted
  /-- The status of the START was `ST_START`. -/
  | startSeen
  /-- The address phase is clocked; the direction is bit 0 of the byte last written to `DR`. -/
  | addrClocked (dir : Direction)
  /-- The last phase was acknowledged. -/
  | acked
  /-- A data phase is clocked. -/
  | dataClocked
  /-- A check has failed. -/
  | failed
  deriving DecidableEq, Repr

/-- The observer of R100: whether `BRR` has been written and `PSR` been written 0x01 since reset, the byte last written to `DR`, and the
transaction. -/
structure Observer where
  brr : Bool
  psr : Bool
  dr : Option Byte
  seen : Seen
  deriving DecidableEq, Repr

/-- The observer of an empty history. -/
def Observer.initial : Observer where
  brr := false
  psr := false
  dr := none
  seen := .closed

/-- The direction of an address-phase byte (R55). -/
def directionOfByte (b : Byte) : Direction := if b.getLsbD 0 then .read else .write

/-- What a write of `CR` is to the observer; `none` where R100 forbids it: before INIT (a), a clock outside an acknowledged phase (b, c), a START
in an open transaction or a STOP outside one (d), anything but STOP after a failed check (e). -/
def Observer.onControl (w : Byte) (o : Observer) : Option Observer :=
  if !(o.brr && o.psr) then none
  else if w = ControlWord.start.byte then
    match o.seen with
    | .closed => some { o with seen := .startAsserted }
    | _ => none
  else if w = ControlWord.clock.byte then
    match o.seen, o.dr with
    | .startSeen, some b => some { o with seen := .addrClocked (directionOfByte b) }
    | .acked, some _ => some { o with seen := .dataClocked }
    | _, _ => none
  else if w = ControlWord.stop.byte then
    match o.seen with
    | .acked | .failed => some { o with seen := .closed }
    | _ => none
  else none

/-- What a read of `SR` is to the observer. In a data phase it does not know which of the two acknowledgements the command expects, and takes
either. -/
def Observer.onStatus (t : StatusTable) (v : Byte) (o : Observer) : Option Observer :=
  match o.seen with
  | .startAsserted => some { o with seen := if statusCode v = t.start then .startSeen else .failed }
  | .addrClocked dir => some { o with seen := if statusCode v = addrAck t dir then .acked else .failed }
  | .dataClocked =>
    some { o with seen := if statusCode v = t.dataTxAck ∨ statusCode v = t.dataRxAck then .acked else .failed }
  | _ => none

/-- One event, as the observer sees it; `none` is a violation of R100. -/
def Observer.see (t : StatusTable) (e : Event) (o : Observer) : Option Observer :=
  match e with
  | .wr .brr _ => some { o with brr := true }
  | .wr .psr v => some { o with psr := o.psr || v == prescaler }
  | .wr .dr v => some { o with dr := some v }
  | .wr .cr w => o.onControl w
  | .wr .sr _ => none
  | .rd .sr v => o.onStatus t v
  | .rd .cr _ => some o
  | .rd .dr _ => some o
  | .rd .brr _ => none
  | .rd .psr _ => none

/-- The observer of a whole history (R100). -/
def observe (t : StatusTable) : List Event → Observer → Option Observer
  | [], o => some o
  | e :: es, o => (o.see t e).bind (observe t es)

/-- What the observer has seen, against the engine's own state. -/
def Observer.agrees (o : Observer) (s : State) : Prop :=
  (s.initd = true → o.brr = true ∧ o.psr = true) ∧
    match s.cur with
    | none =>
      match s.fsm with
      | .idle | .complete => o.seen = .closed
      | .addressSent | .dataPhase => o.seen = .acked
      | .faulted => o.seen = .failed ∨ o.seen = .acked
      | .started => False
    | some c =>
      match s.fsm with
      | .idle | .complete => o.seen = .startAsserted
      | .started => ∃ a d, o.dr = some (addressByte a d) ∧ o.seen = .addrClocked d ∧
          (c.cmd = .start a d ∨ (d = .write ∧ ∃ b, c.cmd = .writeTransaction a b) ∨ (d = .read ∧ c.cmd = .readTransaction a))
      | .dataPhase => o.seen = .dataClocked
      | .addressSent | .faulted => False

/-- The history so far keeps the ordering invariants of R100, and the observer's view of it agrees with the engine. -/
def Orderly (s : State) : Prop :=
  ∃ o, observe s.cfg.status s.hist Observer.initial = some o ∧ o.agrees s

/-! ### What a reset leaves -/

/-- `t` is `s` after a reset of the engine with the inputs `rest` still to come: Idle, not initialised, nothing in flight, no history and no result,
the parameters as they were (R150, R152). -/
structure AfterReset (s t : State) (rest : List Input) : Prop where
  fsm : t.fsm = .idle
  initd : t.initd = false
  cur : t.cur = none
  hist : t.hist = []
  res : t.res = none
  inputs : t.inputs = rest
  cfg : t.cfg = s.cfg

/-! ### The intent of a composite -/

/-- The intent trace of the accesses `e` of a composite that has returned `r`, with the address-phase byte `ab` and the byte `d` staged for its data phase:
`S`, the bytes of the phases it reached, `P` (R121, R92). A lost arbitration can be found at any of the three checks. -/
structure CompositeIntent (ab d : Byte) (r : ResultWord) (e : List Event) : Prop where
  returnedOk : resultFault r = 0 → intentTrace e = [.startCond, .clock (some ab), .clock (some d), .stopCond]
  startFailed : resultFault r = BusFault.startFailed.code → intentTrace e = [.startCond, .stopCond]
  addressNack : resultFault r = BusFault.addressNack.code → intentTrace e = [.startCond, .clock (some ab), .stopCond]
  dataFault : resultFault r = BusFault.dataNack.code ∨ resultFault r = BusFault.readError.code →
    intentTrace e = [.startCond, .clock (some ab), .clock (some d), .stopCond]
  arbitrationLost : resultFault r = BusFault.arbitrationLost.code →
    intentTrace e = [.startCond, .stopCond] ∨ intentTrace e = [.startCond, .clock (some ab), .stopCond] ∨
      intentTrace e = [.startCond, .clock (some ab), .clock (some d), .stopCond]

/-! ### What a run does not depend on -/

/-- Two states that differ at most in `TXB` and `RXB` (R12, R13). -/
def SameButBuffers (s s' : State) : Prop := s' = { s with txb := s'.txb, rxb := s'.rxb }

/-- Two outcomes of the same kind, with states that differ at most in `TXB` and `RXB`, or with the same reason. -/
def AlikeButBuffers : Host.Outcome State Fault Refusal → Host.Outcome State Fault Refusal → Prop
  | .next t, .next t' => SameButBuffers t t'
  | .fault r, .fault r' => r = r'
  | .refused r, .refused r' => r = r'
  | .next _, .fault _ => False
  | .next _, .refused _ => False
  | .fault _, .next _ => False
  | .fault _, .refused _ => False
  | .refused _, .next _ => False
  | .refused _, .fault _ => False

/-! ### How a run ends -/

/-- The verdict on a run (R166). -/
inductive Verdict
  | endedWell
  | endedBadly
  | notEnded
  deriving DecidableEq, Repr

/-- The command in flight hangs: with nothing more from outside it never returns, its poll never sees the flag set (R104, R156). A wait that ends after
however many polls is no hang. -/
def Hangs (s : State) : Prop :=
  ∀ n, ∃ t, Host.Core.run core n { s with inputs := [] } = .next t ∧ t.cur ≠ none

/-- The verdict on a run that has come to stand at `s` (R166): not ended when a command hangs; ended badly when a word is refused, or when nothing is left to do and
a transaction is open; ended well when nothing is left to do and `FSM` is Idle or Complete. A run that goes on from `s` has no verdict there.

Where a command hangs and the next word is refused, R166 gives both "ended badly" and "has not ended"; it is not ended, as in program P8, whatever the word
and whatever the reason the refusal names, an illegal encoding too (DESIGN CHOICE, log 20). R166's runs hold no reset: a hang that a reset comes to end is not
the end of the run, and the run is judged by where it stands after it (DESIGN CHOICE, log 21). -/
def Judged (s : State) : Verdict → Prop
  | .notEnded => Hangs s ∧ ¬ ∃ k rest, s.inputs = .reset k :: rest
  | .endedBadly =>
    (¬ Hangs s ∧ ∃ r, step s = .refused r) ∨
      (s.cur = none ∧ s.inputs = [] ∧ s.fsm ≠ .idle ∧ s.fsm ≠ .complete)
  | .endedWell => s.cur = none ∧ s.inputs = [] ∧ (s.fsm = .idle ∨ s.fsm = .complete)

/-- The verdict on the run from `s` (R166). -/
def RunJudged (s : State) (v : Verdict) : Prop :=
  ∃ n t, Host.Core.run core n s = .next t ∧ Judged t v

end Sys2Proof.Machine
end

