-- ==== Sys2Proof/Certificates/Slice0/Obligations.lean ====
section
/-! DEFINITION. The statements about the engine, each with the rule of spec/ it comes from. -/

open Sys2Proof Sys2Proof.Machine

/-! ### Encoding -/

/-- Decoding an encoded instruction gives it back, with every operand at every value (30_encoding.md R63: "Decode after encode is the identity
on the seven commands with in-range operands"; the three control words as well). -/
def Obligations.EncodedInstructionsDecode : Prop :=
  ∀ i : Instr, decode (encode i) = .ok i

/-- Each word has one meaning: a word that decodes is the encoding of what it decodes to (R63: "encode after decode is the identity on every
word that is not `invalid`"). -/
def Obligations.DecodedWordsEncodeBack : Prop :=
  ∀ (p : PortWord) (i : Instr), decode p = .ok i → encode i = p

/-- Words written out from the patterns of R51 and R54, through the table's numbering of bits. -/
def Obligations.TableWordsDecode : Prop :=
  decodeTableWord 24 0b00010000000000000000 = some .init ∧
  decodeTableWord 24 0b00100100000000000000 = some (.start 0x20 .write) ∧
  decodeTableWord 24 0b00101111111100000000 = some (.start 0x7F .read) ∧
  decodeTableWord 24 0b00110000000001010101 = some (.writeByte 0x55) ∧
  decodeTableWord 24 0b01000000000000000000 = some .readByte ∧
  decodeTableWord 24 0b01010000000000000000 = some .stop ∧
  decodeTableWord 24 0b01100100000001010101 = some (.writeTransaction 0x20 0x55) ∧
  decodeTableWord 24 0b01110100000100000000 = some (.readTransaction 0x20) ∧
  decodeTableWord 8 0b10100100 = some .cwStart ∧
  decodeTableWord 8 0b11000100 = some .cwClock ∧
  decodeTableWord 8 0b10010100 = some .cwStop

/-- The illegal words are exactly those R60 lists, and an illegal word presented to the block is refused. -/
def Obligations.IllegalWordsAreRefused : Prop :=
  ∀ w : CommandWord,
    ((∃ why, decodeCommand w = .error why) ↔
      (opField w = 0 ∨ 8 ≤ (opField w).toNat ∨
        ((opField w = 1 ∨ opField w = 4 ∨ opField w = 5) ∧ w.extractLsb' 0 16 ≠ 0) ∨
        (opField w = 2 ∧ dataField w ≠ 0) ∨
        (opField w = 3 ∧ w.extractLsb' 8 8 ≠ 0) ∨
        (opField w = 6 ∧ dirField w = .read) ∨
        (opField w = 7 ∧ (dirField w = .write ∨ dataField w ≠ 0)))) ∧
    ∀ (why : BadWord) (s : State) (rest : List Input), decodeCommand w = .error why → s.inputs = .issueNow w :: rest →
      step s = .refused (.illegalEncoding why)

/-- The address-phase byte: `AB = (zext_8(addr) << 1) | zext_8(dir) = addr ++ dir = cmd[15:8]`, that is 2 * addr + dir, for every address and both
directions (R56), in the words of START and of both composites. -/
def Obligations.AddressPhaseByte : Prop :=
  ∀ (addr : Addr) (dir : Direction) (data : Byte),
    addressByte addr dir = (addr.setWidth 8 <<< 1) ||| dir.bit.setWidth 8 ∧
    addressByte addr dir = addr ++ dir.bit ∧
    (addressByte addr dir).toNat = 2 * addr.toNat + dir.bit.toNat ∧
    (∀ w, encode (.start addr dir) = .command w → w.extractLsb' 8 8 = addressByte addr dir) ∧
    (∀ w, encode (.writeTransaction addr data) = .command w → w.extractLsb' 8 8 = addressByte addr .write) ∧
    (∀ w, encode (.readTransaction addr) = .command w → w.extractLsb' 8 8 = addressByte addr .read)

/-- Result words: `fault` in bits 11 to 8 (0, or a code 1 to 5 in the order of R130), `data` in bits 7 to 0, 0x00 with a fault (R52). -/
def Obligations.ResultWordLayout : Prop :=
  ∀ b : Byte,
    resultFault (resultWord none b) = 0 ∧ resultData (resultWord none b) = b ∧
    ∀ f : BusFault, resultFault (resultWord (some f) b) = f.code ∧ resultData (resultWord (some f) b) = 0x00 ∧
      f.code.toNat = (match f with
        | .startFailed => 1 | .addressNack => 2 | .dataNack => 3 | .readError => 4 | .arbitrationLost => 5)

/-- The three control words are 0xA4, 0xC4 and 0x94: `GO` and `EN` in all, `STA` in the first, `EA` in the second, `STO` in the third, `IE` and the
reserved bits in none (R54, R21; the spec's decision D3). -/
def Obligations.ControlWordBits : Prop :=
  ControlWord.start.byte = 0xA4 ∧ ControlWord.clock.byte = 0xC4 ∧ ControlWord.stop.byte = 0x94 ∧
  ∀ w : ControlWord, w.byte.getLsbD 7 = true ∧ w.byte.getLsbD 2 = true ∧ w.byte.getLsbD 0 = false ∧
    w.byte.getLsbD 1 = false ∧ w.byte.getLsbD 3 = false ∧ (w.byte.getLsbD 5 = true ↔ w = .start) ∧
    (w.byte.getLsbD 6 = true ↔ w = .clock) ∧ (w.byte.getLsbD 4 = true ↔ w = .stop)

/-! ### The adapter and faults -/

/-- A failed check raises the fault of its phase if the code is not `ST_ARB_LOST` (R131 `StartFailed` at START's first check, R132 `AddressNack` at its second, R133
`DataNack` in WRITE_BYTE, R134 `ReadError` in READ_BYTE); its effect, whatever the fault, is that of R139: `FSM` Faulted, the accesses of the wait and none after them, a
primitive returns the fault with data 0x00, a composite keeps it and goes to its closing STOP; nothing else is touched. The codes and the faults of the phases stand in
`expectedAt`. Which fault a code equal to `ST_ARB_LOST` raises is the spec's decision D14, stated in WaitingCheckFails and the outcome statements. -/
def Obligations.FailedCheckRaisesFault : Prop :=
  ∀ (c : Cur) (s : State) (exp : Byte) (kind : BusFault) (x v : Byte) (b : Bus),
    expectedAt s.cfg.status c.cmd c.seq = some (exp, kind) → s.bus.Answers x v b → statusCode v ≠ exp →
    ∃ (k : BusFault) (t : State), microStep c s = .go t ∧
      (statusCode v ≠ s.cfg.status.arbLost → k = kind) ∧
      t.fsm = .faulted ∧ t.hist = s.hist ++ [.rd .cr x, .rd .sr v] ∧ t.bus = b ∧ t.txb = s.txb ∧ t.rxb = s.rxb ∧
      t.initd = s.initd ∧ t.inputs = s.inputs ∧ t.cfg = s.cfg ∧
      (closingStop c.cmd = none → t.cur = none ∧ t.res = some (k.code ++ (0x00 : Byte))) ∧
      (∀ n, closingStop c.cmd = some n → t.cur = some { c with flt := some k, seq := n } ∧ t.res = s.res)

/-- Fault entry (R139): `FSM <- Faulted`; inside a composite `FLT <- kind` and control passes to the closing STOP; otherwise the result word
`code(kind) ++ 0x00` is produced and `CUR` is cleared. No register access; `TXB`, `RXB`, `INITD` and the controller registers are not touched. -/
def Obligations.FaultEntry : Prop :=
  ∀ (k : BusFault) (c : Cur) (s : State),
    ((∀ a b, c.cmd ≠ .writeTransaction a b) → (∀ a, c.cmd ≠ .readTransaction a) →
      s.raiseBusFault k c = { s with fsm := .faulted, cur := none, res := some (k.code ++ (0x00 : Byte)) }) ∧
    (∀ a b, c.cmd = .writeTransaction a b →
      s.raiseBusFault k c = { s with fsm := .faulted, cur := some { c with flt := some k, seq := 9 } }) ∧
    (∀ a, c.cmd = .readTransaction a →
      s.raiseBusFault k c = { s with fsm := .faulted, cur := some { c with flt := some k, seq := 10 } })

/-- The register port: a read appends `Rd(reg, v)` with the answer `v`, a write appends `Wr(reg, v)` and delivers `v` to the environment; neither touches
anything else of the engine. The oracle's answer can be any byte (R33, R34, R44, R113). That a register's field then holds the byte written is the model's choice
(log 14), and that RefBus, on a write of `SR`, which the engine never makes (R34), keeps its registers (log 19). -/
def Obligations.PortRecordsAccesses : Prop :=
  ∀ (r : Reg) (s : State),
    (s.memRead r).2 = { s with bus := (s.bus.read r).2, hist := s.hist ++ [.rd r (s.memRead r).1] } ∧
    (∀ v rest, s.bus.env = .oracle (v :: rest) → (s.memRead r).1 = v ∧ (s.memRead r).2.bus.env = .oracle rest) ∧
    ∀ v, s.memWrite r v = { s with bus := s.bus.write r v, hist := s.hist ++ [.wr r v] } ∧
      ((r ≠ .sr ∨ ∃ l, s.bus.env = .oracle l) → (s.memWrite r v).bus.ctl.get r = v) ∧
      (r = .sr → (∃ cfg h, s.bus.isRefBus cfg h) → (s.memWrite r v).bus.ctl = s.bus.ctl)

/-! ### The commands -/

/-- INIT (R80): admitted whenever no command is in flight, in every `FSM` and with either `INITD`; writes the divisor to `BRR` and 0x01 to `PSR`, sets
`INITD`, returns 0x000, and leaves everything else; while a command is in flight it is refused. -/
def Obligations.InitOutcome : Prop :=
  ∀ s : State,
    (s.cur = none →
      exec .init s = .next { s with
        initd := true, res := some 0x000,
        bus := (s.bus.write .brr s.cfg.bitRateDivisor).write .psr 0x01,
        hist := s.hist ++ [.wr .brr s.cfg.bitRateDivisor, .wr .psr 0x01] }) ∧
    (s.cur ≠ none → exec .init s = .refused .commandInFlight)

/-- START (R82): both waits, both checks, the success. What is not named in a next state is unchanged. -/
def Obligations.StartOutcomes : Prop :=
  ∀ (addr : Addr) (dir : Direction) (s : State),
    (¬ Admitted (.start addr dir) s → ∃ r, exec (.start addr dir) s = .refused r) ∧
    (Admitted (.start addr dir) s →
      -- the first wait has not ended
      (∀ x b, (s.bus.write .cr 0xA4).Busy x b →
        exec (.start addr dir) s = .next { s with
          cur := some ⟨.start addr dir, 2, none, 0x00⟩, res := none, bus := b,
          hist := s.hist ++ [.wr .cr 0xA4, .rd .cr x] }) ∧
      (∀ x v b, (s.bus.write .cr 0xA4).Answers x v b →
        -- the first check fails: no address phase, no STOP
        (statusCode v ≠ s.cfg.status.start →
          exec (.start addr dir) s = .next { s with
            fsm := .faulted, cur := none,
            res := some (resultWord (some (phaseFault s.cfg.status (statusCode v) .startFailed)) 0x00), bus := b,
            hist := s.hist ++ [.wr .cr 0xA4, .rd .cr x, .rd .sr v] }) ∧
        (statusCode v = s.cfg.status.start →
          -- the second wait has not ended
          (∀ y d, ((b.write .dr (addressByte addr dir)).write .cr 0xC4).Busy y d →
            exec (.start addr dir) s = .next { s with
              fsm := .started, txb := addressByte addr dir, cur := some ⟨.start addr dir, 5, none, 0x00⟩, res := none, bus := d,
              hist := s.hist ++ [.wr .cr 0xA4, .rd .cr x, .rd .sr v, .wr .dr (addressByte addr dir), .wr .cr 0xC4, .rd .cr y] }) ∧
          (∀ y u d, ((b.write .dr (addressByte addr dir)).write .cr 0xC4).Answers y u d →
            -- the second check fails: no STOP
            (statusCode u ≠ addrAck s.cfg.status dir →
              exec (.start addr dir) s = .next { s with
                fsm := .faulted, txb := addressByte addr dir, cur := none,
                res := some (resultWord (some (phaseFault s.cfg.status (statusCode u) .addressNack)) 0x00), bus := d,
                hist := s.hist ++ [.wr .cr 0xA4, .rd .cr x, .rd .sr v, .wr .dr (addressByte addr dir), .wr .cr 0xC4, .rd .cr y,
                  .rd .sr u] }) ∧
            -- the address phase is acknowledged
            (statusCode u = addrAck s.cfg.status dir →
              exec (.start addr dir) s = .next { s with
                fsm := .addressSent, txb := addressByte addr dir, cur := none, res := some 0x000, bus := d,
                hist := s.hist ++ [.wr .cr 0xA4, .rd .cr x, .rd .sr v, .wr .dr (addressByte addr dir), .wr .cr 0xC4, .rd .cr y,
                  .rd .sr u] })))))

/-- WRITE_BYTE (R83): the wait, the check, the success. -/
def Obligations.WriteByteOutcomes : Prop :=
  ∀ (data : Byte) (s : State),
    (¬ Admitted (.writeByte data) s → ∃ r, exec (.writeByte data) s = .refused r) ∧
    (Admitted (.writeByte data) s →
      (∀ x b, ((s.bus.write .dr data).write .cr 0xC4).Busy x b →
        exec (.writeByte data) s = .next { s with
          fsm := .dataPhase, txb := data, cur := some ⟨.writeByte data, 3, none, 0x00⟩, res := none, bus := b,
          hist := s.hist ++ [.wr .dr data, .wr .cr 0xC4, .rd .cr x] }) ∧
      (∀ x v b, ((s.bus.write .dr data).write .cr 0xC4).Answers x v b →
        (statusCode v ≠ s.cfg.status.dataTxAck →
          exec (.writeByte data) s = .next { s with
            fsm := .faulted, txb := data, cur := none,
            res := some (resultWord (some (phaseFault s.cfg.status (statusCode v) .dataNack)) 0x00), bus := b,
            hist := s.hist ++ [.wr .dr data, .wr .cr 0xC4, .rd .cr x, .rd .sr v] }) ∧
        (statusCode v = s.cfg.status.dataTxAck →
          exec (.writeByte data) s = .next { s with
            fsm := .dataPhase, txb := data, cur := none, res := some 0x000, bus := b,
            hist := s.hist ++ [.wr .dr data, .wr .cr 0xC4, .rd .cr x, .rd .sr v] })))

/-- READ_BYTE (R84): the wait, the check, the success; on a failed check `DR` is not read and `RXB` keeps its value (decisions D8, D19). -/
def Obligations.ReadByteOutcomes : Prop :=
  ∀ s : State,
    (¬ Admitted .readByte s → ∃ r, exec .readByte s = .refused r) ∧
    (Admitted .readByte s →
      (∀ x b, ((s.bus.write .dr 0x00).write .cr 0xC4).Busy x b →
        exec .readByte s = .next { s with
          fsm := .dataPhase, txb := 0x00, cur := some ⟨.readByte, 3, none, 0x00⟩, res := none, bus := b,
          hist := s.hist ++ [.wr .dr 0x00, .wr .cr 0xC4, .rd .cr x] }) ∧
      (∀ x v b, ((s.bus.write .dr 0x00).write .cr 0xC4).Answers x v b →
        (statusCode v ≠ s.cfg.status.dataRxAck →
          exec .readByte s = .next { s with
            fsm := .faulted, txb := 0x00, cur := none,
            res := some (resultWord (some (phaseFault s.cfg.status (statusCode v) .readError)) 0x00), bus := b,
            hist := s.hist ++ [.wr .dr 0x00, .wr .cr 0xC4, .rd .cr x, .rd .sr v] }) ∧
        (statusCode v = s.cfg.status.dataRxAck → ∀ y d, b.read .dr = (y, d) →
          exec .readByte s = .next { s with
            fsm := .dataPhase, txb := 0x00, rxb := y, cur := none, res := some (resultWord none y), bus := d,
            hist := s.hist ++ [.wr .dr 0x00, .wr .cr 0xC4, .rd .cr x, .rd .sr v, .rd .dr y] })))

/-- STOP (R85): one write of `CR`, no wait, result 0x000; DataPhase to Complete, AddressSent and Faulted to Idle (decision D15). -/
def Obligations.StopOutcome : Prop :=
  ∀ s : State,
    (¬ Admitted .stop s → ∃ r, exec .stop s = .refused r) ∧
    (Admitted .stop s →
      exec .stop s = .next { s with
        fsm := if s.fsm = .dataPhase then .complete else .idle, res := some 0x000, bus := s.bus.write .cr 0x94,
        hist := s.hist ++ [.wr .cr 0x94] })

/-- WRITE_TRANSACTION (R90): START with direction Write, WRITE_BYTE, and STOP on every path that returns; `FSM` ends Complete on success and Idle after
a fault; a wait that has not ended leaves the command in flight with no STOP. -/
def Obligations.WriteTransactionOutcomes : Prop :=
  ∀ (addr : Addr) (data : Byte) (s : State),
    (¬ Admitted (.writeTransaction addr data) s → ∃ r, exec (.writeTransaction addr data) s = .refused r) ∧
    (Admitted (.writeTransaction addr data) s →
      (∀ x b, (s.bus.write .cr 0xA4).Busy x b →
        exec (.writeTransaction addr data) s = .next { s with
          cur := some ⟨.writeTransaction addr data, 2, none, 0x00⟩, res := none, bus := b,
          hist := s.hist ++ [.wr .cr 0xA4, .rd .cr x] }) ∧
      (∀ x v b, (s.bus.write .cr 0xA4).Answers x v b →
        (statusCode v ≠ s.cfg.status.start →
          exec (.writeTransaction addr data) s = .next { s with
            fsm := .idle,
            res := some (resultWord (some (phaseFault s.cfg.status (statusCode v) .startFailed)) 0x00),
            bus := b.write .cr 0x94,
            hist := s.hist ++ [.wr .cr 0xA4, .rd .cr x, .rd .sr v, .wr .cr 0x94] }) ∧
        (statusCode v = s.cfg.status.start →
          (∀ y d, ((b.write .dr (addressByte addr .write)).write .cr 0xC4).Busy y d →
            exec (.writeTransaction addr data) s = .next { s with
              fsm := .started, txb := addressByte addr .write, cur := some ⟨.writeTransaction addr data, 5, none, 0x00⟩,
              res := none, bus := d,
              hist := s.hist ++ [.wr .cr 0xA4, .rd .cr x, .rd .sr v, .wr .dr (addressByte addr .write), .wr .cr 0xC4, .rd .cr y] }) ∧
          (∀ y u d, ((b.write .dr (addressByte addr .write)).write .cr 0xC4).Answers y u d →
            (statusCode u ≠ s.cfg.status.addrAckW →
              exec (.writeTransaction addr data) s = .next { s with
                fsm := .idle, txb := addressByte addr .write,
                res := some (resultWord (some (phaseFault s.cfg.status (statusCode u) .addressNack)) 0x00),
                bus := d.write .cr 0x94,
                hist := s.hist ++ [.wr .cr 0xA4, .rd .cr x, .rd .sr v, .wr .dr (addressByte addr .write), .wr .cr 0xC4, .rd .cr y,
                  .rd .sr u, .wr .cr 0x94] }) ∧
            (statusCode u = s.cfg.status.addrAckW →
              (∀ z e, ((d.write .dr data).write .cr 0xC4).Busy z e →
                exec (.writeTransaction addr data) s = .next { s with
                  fsm := .dataPhase, txb := data, cur := some ⟨.writeTransaction addr data, 8, none, 0x00⟩, res := none, bus := e,
                  hist := s.hist ++ [.wr .cr 0xA4, .rd .cr x, .rd .sr v, .wr .dr (addressByte addr .write), .wr .cr 0xC4,
                    .rd .cr y, .rd .sr u, .wr .dr data, .wr .cr 0xC4, .rd .cr z] }) ∧
              (∀ z k e, ((d.write .dr data).write .cr 0xC4).Answers z k e →
                (statusCode k ≠ s.cfg.status.dataTxAck →
                  exec (.writeTransaction addr data) s = .next { s with
                    fsm := .idle, txb := data,
                    res := some (resultWord (some (phaseFault s.cfg.status (statusCode k) .dataNack)) 0x00),
                    bus := e.write .cr 0x94,
                    hist := s.hist ++ [.wr .cr 0xA4, .rd .cr x, .rd .sr v, .wr .dr (addressByte addr .write), .wr .cr 0xC4,
                      .rd .cr y, .rd .sr u, .wr .dr data, .wr .cr 0xC4, .rd .cr z, .rd .sr k, .wr .cr 0x94] }) ∧
                (statusCode k = s.cfg.status.dataTxAck →
                  exec (.writeTransaction addr data) s = .next { s with
                    fsm := .complete, txb := data, res := some 0x000, bus := e.write .cr 0x94,
                    hist := s.hist ++ [.wr .cr 0xA4, .rd .cr x, .rd .sr v, .wr .dr (addressByte addr .write), .wr .cr 0xC4,
                      .rd .cr y, .rd .sr u, .wr .dr data, .wr .cr 0xC4, .rd .cr z, .rd .sr k, .wr .cr 0x94] })))))))

/-- READ_TRANSACTION (R91): START with direction Read, READ_BYTE, and STOP on every path that returns; the received byte is returned only when every
check has passed. -/
def Obligations.ReadTransactionOutcomes : Prop :=
  ∀ (addr : Addr) (s : State),
    (¬ Admitted (.readTransaction addr) s → ∃ r, exec (.readTransaction addr) s = .refused r) ∧
    (Admitted (.readTransaction addr) s →
      (∀ x b, (s.bus.write .cr 0xA4).Busy x b →
        exec (.readTransaction addr) s = .next { s with
          cur := some ⟨.readTransaction addr, 2, none, 0x00⟩, res := none, bus := b,
          hist := s.hist ++ [.wr .cr 0xA4, .rd .cr x] }) ∧
      (∀ x v b, (s.bus.write .cr 0xA4).Answers x v b →
        (statusCode v ≠ s.cfg.status.start →
          exec (.readTransaction addr) s = .next { s with
            fsm := .idle,
            res := some (resultWord (some (phaseFault s.cfg.status (statusCode v) .startFailed)) 0x00),
            bus := b.write .cr 0x94,
            hist := s.hist ++ [.wr .cr 0xA4, .rd .cr x, .rd .sr v, .wr .cr 0x94] }) ∧
        (statusCode v = s.cfg.status.start →
          (∀ y d, ((b.write .dr (addressByte addr .read)).write .cr 0xC4).Busy y d →
            exec (.readTransaction addr) s = .next { s with
              fsm := .started, txb := addressByte addr .read, cur := some ⟨.readTransaction addr, 5, none, 0x00⟩,
              res := none, bus := d,
              hist := s.hist ++ [.wr .cr 0xA4, .rd .cr x, .rd .sr v, .wr .dr (addressByte addr .read), .wr .cr 0xC4, .rd .cr y] }) ∧
          (∀ y u d, ((b.write .dr (addressByte addr .read)).write .cr 0xC4).Answers y u d →
            (statusCode u ≠ s.cfg.status.addrAckR →
              exec (.readTransaction addr) s = .next { s with
                fsm := .idle, txb := addressByte addr .read,
                res := some (resultWord (some (phaseFault s.cfg.status (statusCode u) .addressNack)) 0x00),
                bus := d.write .cr 0x94,
                hist := s.hist ++ [.wr .cr 0xA4, .rd .cr x, .rd .sr v, .wr .dr (addressByte addr .read), .wr .cr 0xC4, .rd .cr y,
                  .rd .sr u, .wr .cr 0x94] }) ∧
            (statusCode u = s.cfg.status.addrAckR →
              (∀ z e, ((d.write .dr 0x00).write .cr 0xC4).Busy z e →
                exec (.readTransaction addr) s = .next { s with
                  fsm := .dataPhase, txb := 0x00, cur := some ⟨.readTransaction addr, 8, none, 0x00⟩, res := none, bus := e,
                  hist := s.hist ++ [.wr .cr 0xA4, .rd .cr x, .rd .sr v, .wr .dr (addressByte addr .read), .wr .cr 0xC4,
                    .rd .cr y, .rd .sr u, .wr .dr 0x00, .wr .cr 0xC4, .rd .cr z] }) ∧
              (∀ z k e, ((d.write .dr 0x00).write .cr 0xC4).Answers z k e →
                (statusCode k ≠ s.cfg.status.dataRxAck →
                  exec (.readTransaction addr) s = .next { s with
                    fsm := .idle, txb := 0x00,
                    res := some (resultWord (some (phaseFault s.cfg.status (statusCode k) .readError)) 0x00),
                    bus := e.write .cr 0x94,
                    hist := s.hist ++ [.wr .cr 0xA4, .rd .cr x, .rd .sr v, .wr .dr (addressByte addr .read), .wr .cr 0xC4,
                      .rd .cr y, .rd .sr u, .wr .dr 0x00, .wr .cr 0xC4, .rd .cr z, .rd .sr k, .wr .cr 0x94] }) ∧
                (statusCode k = s.cfg.status.dataRxAck → ∀ q f, e.read .dr = (q, f) →
                  exec (.readTransaction addr) s = .next { s with
                    fsm := .complete, txb := 0x00, rxb := q, res := some (resultWord none q), bus := f.write .cr 0x94,
                    hist := s.hist ++ [.wr .cr 0xA4, .rd .cr x, .rd .sr v, .wr .dr (addressByte addr .read), .wr .cr 0xC4,
                      .rd .cr y, .rd .sr u, .wr .dr 0x00, .wr .cr 0xC4, .rd .cr z, .rd .sr k, .rd .dr q, .wr .cr 0x94] })))))))

/-- The control-word rows: ASSERT(`w`) is one write of `CR`, of 0xA4, 0xC4 or 0x94, and nothing else (R71 to R74). -/
def Obligations.ControlWordsAsserted : Prop :=
  ∀ s : State,
    exec .cwStart s = .next { s with bus := s.bus.write .cr 0xA4, hist := s.hist ++ [.wr .cr 0xA4] } ∧
    exec .cwClock s = .next { s with bus := s.bus.write .cr 0xC4, hist := s.hist ++ [.wr .cr 0xC4] } ∧
    exec .cwStop s = .next { s with bus := s.bus.write .cr 0x94, hist := s.hist ++ [.wr .cr 0x94] }

/-! ### Waiting -/

/-- A waiting command whose poll sees the flag clear reads `CR` once more and nothing else happens (R75, R156): the hang is such a step for ever. -/
def Obligations.WaitingPollsAgain : Prop :=
  ∀ (s : State) (c : Cur) (x : Byte) (b : Bus), EngineInv s → s.cur = some c → s.inputs = [] → s.bus.Busy x b →
    step s = .next { s with bus := b, hist := s.hist ++ [.rd .cr x] }

/-- A waiting command whose check fails: a primitive returns the fault with `FSM` Faulted and no STOP (R81); a composite asserts STOP, returns the
fault and ends Idle (R92). -/
def Obligations.WaitingCheckFails : Prop :=
  ∀ (s : State) (c : Cur) (exp : Byte) (kind : BusFault) (x v : Byte) (b : Bus),
    EngineInv s → s.cur = some c → s.inputs = [] → expectedAt s.cfg.status c.cmd c.seq = some (exp, kind) →
    s.bus.Answers x v b → statusCode v ≠ exp →
    ((closingStop c.cmd = none →
      step s = .next { s with
        fsm := .faulted, cur := none, res := some (resultWord (some (phaseFault s.cfg.status (statusCode v) kind)) 0x00), bus := b,
        hist := s.hist ++ [.rd .cr x, .rd .sr v] }) ∧
    (closingStop c.cmd ≠ none →
      step s = .next { s with
        fsm := .idle, cur := none, res := some (resultWord (some (phaseFault s.cfg.status (statusCode v) kind)) 0x00),
        bus := b.write .cr 0x94, hist := s.hist ++ [.rd .cr x, .rd .sr v, .wr .cr 0x94] }))

/-- A waiting command whose last check passes completes as its rule says (R82, R83, R84, R90, R91). -/
def Obligations.WaitingLastCheckPasses : Prop :=
  ∀ (s : State) (c : Cur) (exp : Byte) (kind : BusFault) (x v : Byte) (b : Bus),
    EngineInv s → s.cur = some c → s.inputs = [] → expectedAt s.cfg.status c.cmd c.seq = some (exp, kind) →
    s.bus.Answers x v b → statusCode v = exp →
    (∀ a d, c.cmd = .start a d → c.seq = 5 →
      step s = .next { s with
        fsm := .addressSent, cur := none, res := some 0x000, bus := b, hist := s.hist ++ [.rd .cr x, .rd .sr v] }) ∧
    (∀ w, c.cmd = .writeByte w →
      step s = .next { s with cur := none, res := some 0x000, bus := b, hist := s.hist ++ [.rd .cr x, .rd .sr v] }) ∧
    (c.cmd = .readByte → ∀ y d, b.read .dr = (y, d) →
      step s = .next { s with
        rxb := y, cur := none, res := some (resultWord none y), bus := d,
        hist := s.hist ++ [.rd .cr x, .rd .sr v, .rd .dr y] }) ∧
    (∀ a w, c.cmd = .writeTransaction a w → c.seq = 8 →
      step s = .next { s with
        fsm := .complete, cur := none, res := some 0x000, bus := b.write .cr 0x94,
        hist := s.hist ++ [.rd .cr x, .rd .sr v, .wr .cr 0x94] }) ∧
    (∀ a, c.cmd = .readTransaction a → c.seq = 8 → ∀ y d, b.read .dr = (y, d) →
      step s = .next { s with
        fsm := .complete, rxb := y, cur := none, res := some (resultWord none y), bus := d.write .cr 0x94,
        hist := s.hist ++ [.rd .cr x, .rd .sr v, .rd .dr y, .wr .cr 0x94] })

/-- A waiting command whose check passes, but not its last, goes on to its next wait: its step is the step of the machine that has done the micro-steps
in between (R82, R90, R91). How long a wait took changes nothing but the polls in the history. -/
def Obligations.WaitingGoesOnToNextWait : Prop :=
  ∀ (s : State) (c : Cur) (exp : Byte) (kind : BusFault) (x v : Byte) (b : Bus),
    EngineInv s → s.cur = some c → s.inputs = [] → expectedAt s.cfg.status c.cmd c.seq = some (exp, kind) →
    s.bus.Answers x v b → statusCode v = exp →
    (∀ a d, (c.cmd = .start a d ∨ (d = .write ∧ ∃ w, c.cmd = .writeTransaction a w) ∨ (d = .read ∧ c.cmd = .readTransaction a)) →
      c.seq = 2 →
      step s = step { s with
        fsm := .started, txb := addressByte a d, cur := some { c with seq := 5 },
        bus := (b.write .dr (addressByte a d)).write .cr 0xC4,
        hist := s.hist ++ [.rd .cr x, .rd .sr v, .wr .dr (addressByte a d), .wr .cr 0xC4] }) ∧
    (∀ a w, c.cmd = .writeTransaction a w → c.seq = 5 →
      step s = step { s with
        fsm := .dataPhase, txb := w, cur := some { c with seq := 8 }, bus := (b.write .dr w).write .cr 0xC4,
        hist := s.hist ++ [.rd .cr x, .rd .sr v, .wr .dr w, .wr .cr 0xC4] }) ∧
    (∀ a, c.cmd = .readTransaction a → c.seq = 5 →
      step s = step { s with
        fsm := .dataPhase, txb := 0x00, cur := some { c with seq := 8 }, bus := (b.write .dr 0x00).write .cr 0xC4,
        hist := s.hist ++ [.rd .cr x, .rd .sr v, .wr .dr 0x00, .wr .cr 0xC4] })

/-! ### Admission, the port, reset -/

/-- A command is refused exactly when it is not admitted (R97): no command in flight, initialised but for INIT, "yes" in the admission table. -/
def Obligations.AdmissionDecides : Prop :=
  ∀ (i : Instr) (s : State), i.isCommand = true →
    (Admitted i s → ∃ t, exec i s = .next t) ∧ (¬ Admitted i s → ∃ r, exec i s = .refused r)

/-- "any command issued while another is in flight" is refused (R136), whatever the word. -/
def Obligations.RefusedWhileInFlight : Prop :=
  ∀ (s : State) (w : CommandWord) (rest : List Input), s.cur ≠ none → s.inputs = .issueNow w :: rest →
    ∃ r, step s = .refused r

/-- A step runs the decoded instruction: a word presented at once, or issued when no command is in flight, or issued by a caller that skips it after a fault when
the last result carries none, or a control word at the adapter, is exec of what it decodes to, the input being used up (the inputs are the model's form
of the port: log 6, 7, 15). -/
def Obligations.StepRunsDecodedInstruction : Prop :=
  ∀ (s : State) (w : CommandWord) (v : Byte) (rest : List Input) (i : Instr),
    (decode (.command w) = .ok i → s.inputs = .issueNow w :: rest → step s = exec i { s with inputs := rest }) ∧
    (decode (.command w) = .ok i → s.inputs = .issue w :: rest → s.cur = none → step s = exec i { s with inputs := rest }) ∧
    (decode (.command w) = .ok i → s.inputs = .issueUnlessFault w :: rest → s.cur = none → (∀ r, s.res = some r → resultFault r = 0) →
      step s = exec i { s with inputs := rest }) ∧
    (decode (.control v) = .ok i → s.inputs = .control v :: rest → s.cur = none → step s = exec i { s with inputs := rest })

/-- A table word placed as the next input is the next instruction run (the model's own interface: log 6, 7). -/
def Obligations.PlacedWordRuns : Prop :=
  ∀ (s : State) (n : Nat) (i : Instr),
    (decodeTableWord 24 n = some i → step (s.withFetchWord 24 n) = exec i s) ∧
    (decodeTableWord 8 n = some i → s.cur = none → step (s.withFetchWord 8 n) = exec i s)

/-- While a command is in flight a caller that issues is blocked: the step is that of the machine without inputs, and the input stays (R110; log 6). -/
def Obligations.CallerBlockedWhileInFlight : Prop :=
  ∀ (s : State) (w : CommandWord) (k : Nat) (rest : List Input), s.cur ≠ none →
    (s.inputs = .issue w :: rest ∨ s.inputs = .issueUnlessFault w :: rest ∨ s.inputs = .issueThenReset w k :: rest) →
    ∀ t, step s = .next t → t.inputs = s.inputs ∧ step { s with inputs := [] } = .next { t with inputs := [] }

/-- Pseudo-instructions (R66). What the caller issues for WRITE_REG and PROBE, and for a line that is one command; and, once a command of an expansion has
returned a fault, every data phase that is left is skipped with no effect on the engine, and the STOP that follows runs. (The form of the caller's moves is
the model's: log 6, 15.) -/
def Obligations.ExpansionSkipsToStopAfterFault : Prop :=
  (∀ a r b : Nat, a ≤ 127 → r ≤ 255 → b ≤ 255 → ∃ wa wr wb,
    encode (.start (BitVec.ofNat 7 a) .write) = .command wa ∧ encode (.writeByte (BitVec.ofNat 8 r)) = .command wr ∧
    encode (.writeByte (BitVec.ofNat 8 b)) = .command wb ∧
    lineInputs (.writeReg a r b) = some [.issue wa, .issueUnlessFault wr, .issueUnlessFault wb, .issue 0x50000]) ∧
  (∀ (a : Nat) (d : Direction), a ≤ 127 → ∃ wa, encode (.start (BitVec.ofNat 7 a) d) = .command wa ∧
    lineInputs (.probe a d) = some [.issue wa, .issue 0x50000]) ∧
  (∀ (l : AsmLine) (i : Instr), assemble l = some [i] → ∃ w, encode i = .command w ∧ lineInputs l = some [.issue w]) ∧
  ∀ (s : State) (l rest : List Input) (f : BusFault) (b : Byte),
    s.cur = none → s.res = some (resultWord (some f) b) → (∀ i ∈ l, ∃ w, i = .issueUnlessFault w) →
    s.inputs = l ++ .issue 0x50000 :: rest →
    Host.Core.run Sys2Proof.core l.length s = .next { s with inputs := .issue 0x50000 :: rest } ∧
    step { s with inputs := .issue 0x50000 :: rest } = exec .stop { s with inputs := rest }

/-- The state right after reset (R150, R152; decision D17): Idle, not initialised, nothing in flight, empty history, no result; every command but INIT is
refused and INIT is not. And a machine is built from exactly the configurations that pass the check of R5 (where the check stands is the model's choice,
log 12). -/
def Obligations.ResetState : Prop :=
  State.reset.fsm = .idle ∧ State.reset.initd = false ∧ State.reset.cur = none ∧ State.reset.hist = [] ∧
  State.reset.res = none ∧ State.reset.inputs = [] ∧ State.reset.cfg.status = ⟨0x08, 0x18, 0x40, 0x28, 0x50, 0x38, 0x30⟩ ∧
  (∀ i : Instr, i.isCommand = true → i ≠ .init → exec i State.reset = .refused .notInitialised) ∧
  (∃ t, exec .init State.reset = .next t ∧ t.initd = true ∧ t.fsm = .idle) ∧
  State.boot State.reset.cfg = some State.reset ∧
  ∀ cfg : Config, (∃ s, State.boot cfg = some s) ↔
    ((∀ c ∈ [cfg.status.start, cfg.status.addrAckW, cfg.status.addrAckR, cfg.status.dataTxAck, cfg.status.dataRxAck, cfg.status.arbLost,
        cfg.status.dataTxNack], c &&& 0x07 = 0) ∧
      ∀ c ∈ [cfg.status.start, cfg.status.addrAckW, cfg.status.addrAckR, cfg.status.dataTxAck, cfg.status.dataRxAck], c ≠ cfg.status.arbLost)

/-- The reset event (R150, R151; decision D17): whatever the engine was doing, it is Idle, not initialised, with nothing in flight, an empty history and no
result; no register access is made; from there only INIT is admitted. That the environment and the controller registers are as they were is the model's
choice (log 9): R151 leaves a reset of the controller to the platform, and only for RefBus does a rule say it (R124). -/
def Obligations.ResetEvent : Prop :=
  ∀ (s : State) (rest : List Input), s.inputs = .reset 0 :: rest →
    ∃ t, step s = .next t ∧ AfterReset s t rest ∧ t.bus.env = s.bus.env ∧ t.bus.ctl = s.bus.ctl ∧
      ∀ i : Instr, i.isCommand = true → ((∃ u, exec i t = .next u) ↔ i = .init)

/-- Reset may fall at any micro-step (R150): of a command that stands at a wait, and of a command just taken, before its first wait as well; the engine ends in its
reset state all the same. (The inputs that place the reset are the model's form: log 9.) A command that is not admitted is refused, reset or not. -/
def Obligations.ResetAnywhere : Prop :=
  ∀ (s : State) (k : Nat) (rest : List Input), EngineInv s →
    (s.inputs = .reset k :: rest → ∃ t, step s = .next t ∧ AfterReset s t rest) ∧
    ∀ (i : Instr) (w : CommandWord), encode i = .command w → s.inputs = .issueThenReset w k :: rest →
      (Admitted i s → ∃ t, step s = .next t ∧ AfterReset s t rest) ∧
      (s.cur = none → ¬ Admitted i s → ∃ r, step s = .refused r)

/-! ### Invariants -/

/-- The state after reset meets every invariant stated below, and so does every machine that can be built. -/
def Obligations.ResetMeetsInvariants : Prop :=
  (EngineInv State.reset ∧ Orderly State.reset ∧ accessOrder none State.reset.hist = true ∧
    State.reset.hist.all Event.allowed = true ∧ CallerOnly State.reset.inputs) ∧
  ∀ (cfg : Config) (s : State), (State.boot cfg = some s ∨ ∃ r, State.bootRefBus cfg r = some s) →
    EngineInv s ∧ Orderly s ∧ accessOrder none s.hist = true ∧ s.hist.all Event.allowed = true ∧ CallerOnly s.inputs

/-- Every step keeps the invariant of the engine: Started is never the state of a command boundary (R99), a command in flight stands at a wait with the
`FSM` of R104, before INIT nothing is open (R97), result words are of the form of R52. -/
def Obligations.StepKeepsInv : Prop :=
  ∀ s t : State, EngineInv s → step s = .next t → EngineInv t

/-- Every step keeps the discipline of the register port: `SR` is never written, `BRR` and `PSR` are never read, `PSR` is written 0x01 only and `CR` one of the
three control words only (R33, R34, R53). -/
def Obligations.StepKeepsPortDiscipline : Prop :=
  ∀ s t : State, s.hist.all Event.allowed = true → step s = .next t → t.hist.all Event.allowed = true

/-- Every step keeps the two orderings inside a phase (R39), if nothing but the caller and reset reaches the block. -/
def Obligations.StepKeepsAccessOrder : Prop :=
  ∀ s t : State, EngineInv s → CallerOnly s.inputs → accessOrder none s.hist = true → step s = .next t →
    CallerOnly t.inputs ∧ accessOrder none t.hist = true

/-- Every step keeps the ordering invariants of R100: INIT before the first write of `CR`, a clock only in an acknowledged phase, one STOP between two STARTs,
nothing but STOP after a failed check. -/
def Obligations.StepKeepsOrderly : Prop :=
  ∀ s t : State, EngineInv s → CallerOnly s.inputs → Orderly s → step s = .next t → CallerOnly t.inputs ∧ Orderly t

/-- The machine never stops with a fault: bus faults are results (R139; log 11). -/
def Obligations.StepNeverFaults : Prop :=
  ∀ s : State, EngineInv s → ∀ r, step s ≠ .fault r

/-- No step changes the configuration (R18), and no step but a reset clears `INITD` (R14). -/
def Obligations.ConfigFixedInitdSticky : Prop :=
  ∀ s t : State, step s = .next t → t.cfg = s.cfg ∧
    (s.initd = true → t.initd = false →
      (∃ k rest, s.inputs = .reset k :: rest) ∨ (∃ w k rest, s.inputs = .issueThenReset w k :: rest))

/-! ### Rules about the whole machine -/

/-- A composite asserts STOP exactly once on every path that returns, as its last access, and not at all while it is in flight; it returns with `FSM` Complete
after success and Idle after a fault (R92, R93). Both when it is issued and when it goes on after a wait. -/
def Obligations.CompositesStopExactlyOnce : Prop :=
  ∀ (i : Instr) (s t : State), closingStop i ≠ none →
    (exec i s = .next t ∨ (EngineInv s ∧ (∃ c, s.cur = some c ∧ c.cmd = i) ∧ s.inputs = [] ∧ step s = .next t)) →
    ∃ e, t.hist = s.hist ++ e ∧
      (t.cur = none → countAsserts .stop e = 1 ∧ e.getLast? = some (.wr .cr 0x94) ∧
        ∃ r, t.res = some r ∧ (resultFault r = 0 → t.fsm = .complete) ∧ (resultFault r ≠ 0 → t.fsm = .idle)) ∧
      (t.cur ≠ none → countAsserts .stop e = 0)

/-- START, WRITE_BYTE and READ_BYTE never assert STOP; with a fault they leave `FSM` Faulted, and STOP to the caller (R81). -/
def Obligations.PrimitivesLeaveStopToCaller : Prop :=
  ∀ (i : Instr) (s t : State), ((∃ a d, i = .start a d) ∨ (∃ b, i = .writeByte b) ∨ i = .readByte) →
    (exec i s = .next t ∨ (EngineInv s ∧ (∃ c, s.cur = some c ∧ c.cmd = i) ∧ s.inputs = [] ∧ step s = .next t)) →
    ∃ e, t.hist = s.hist ++ e ∧ countAsserts .stop e = 0 ∧
      (t.cur = none → ∃ r, t.res = some r ∧ (resultFault r ≠ 0 ↔ t.fsm = .faulted))

/-- In Faulted the only commands that run are STOP, which leads to Idle, and INIT, which leaves it (R101, R141); neither returns a fault (R142). -/
def Obligations.FaultedLeftOnlyByStop : Prop :=
  ∀ (i : Instr) (s t : State), i.isCommand = true → s.fsm = .faulted → exec i s = .next t →
    t.res = some 0x000 ∧ ((i = .stop ∧ t.fsm = .idle) ∨ (i = .init ∧ t.fsm = .faulted))

/-- Idle and Complete admit the same commands, and every command behaves identically from either, but for `FSM` itself where the command has not yet
written it (R102). -/
def Obligations.IdleCompleteAlike : Prop :=
  ∀ (i : Instr) (s : State), i.isCommand = true →
    (∃ r, exec i { s with fsm := .idle } = .refused r ∧ exec i { s with fsm := .complete } = .refused r) ∨
    (∃ t, exec i { s with fsm := .idle } = .next t ∧
      (exec i { s with fsm := .complete } = .next t ∨
        (t.fsm = .idle ∧ exec i { s with fsm := .complete } = .next { t with fsm := .complete })))

/-- No state leaks between transactions: a composite run from two engine states that both admit it, against the same bus, does the same and returns the
same (R94). -/
def Obligations.CompositesLeakNoState : Prop :=
  ∀ (i : Instr) (s s' : State), closingStop i ≠ none → Admitted i s → Admitted i s' → s.bus = s'.bus → s.cfg = s'.cfg →
    ∃ t t' e, exec i s = .next t ∧ exec i s' = .next t' ∧ t.hist = s.hist ++ e ∧ t'.hist = s'.hist ++ e ∧
      t.res = t'.res ∧ t.bus = t'.bus ∧ t.cur = t'.cur ∧ (t.cur = none → t.fsm = t'.fsm)

/-- The bus-free property (R105): START, then STOP, for every address and both directions, from any state that admits START and whatever the environment answers,
once both have returned, leaves Idle, with exactly one START and one STOP asserted, the START first and the STOP last. -/
def Obligations.StartThenStopReleases : Prop :=
  ∀ (addr : Addr) (dir : Direction) (s t : State) (n : Nat) (w : CommandWord),
    Admitted (.start addr dir) s → encode (.start addr dir) = .command w → s.inputs = [.issue w, .issue 0x50000] →
    Host.Core.run Sys2Proof.core n s = .next t → t.inputs = [] → t.cur = none →
    t.fsm = .idle ∧ ∃ e, t.hist = s.hist ++ e ∧ countAsserts .start e = 1 ∧ countAsserts .stop e = 1 ∧
      e.head? = some (.wr .cr 0xA4) ∧ e.getLast? = some (.wr .cr 0x94)

/-- `RXB` is written only by a READ_BYTE or READ_TRANSACTION that returns OK, with the byte it returns (R13): when it is issued, and when a step goes on with it
after a wait. No other step changes `RXB` but a reset, after which it is unspecified (R150). That it is kept on a fault is decision D19. -/
def Obligations.ReceiveBufferWrittenOnlyByReads : Prop :=
  (∀ (i : Instr) (s t : State), exec i s = .next t → t.rxb ≠ s.rxb →
    (i = .readByte ∨ ∃ a, i = .readTransaction a) ∧ t.cur = none ∧ t.res = some (resultWord none t.rxb)) ∧
  ∀ s t : State, EngineInv s → step s = .next t → t.rxb ≠ s.rxb →
    (∃ k rest, s.inputs = .reset k :: rest) ∨
    (s.cur = none ∧ ∃ w k rest, s.inputs = .issueThenReset w k :: rest) ∨
    (t.cur = none ∧ t.res = some (resultWord none t.rxb) ∧ ∃ i : Instr, (i = .readByte ∨ ∃ a, i = .readTransaction a) ∧
      ((∃ c, s.cur = some c ∧ c.cmd = i) ∨
        (s.cur = none ∧ ∃ w rest, encode i = .command w ∧
          (s.inputs = .issue w :: rest ∨ s.inputs = .issueUnlessFault w :: rest ∨ s.inputs = .issueNow w :: rest))))

/-- INIT is idempotent (R80): a second INIT leaves the state the first left, but for two more writes in the history. -/
def Obligations.InitIdempotent : Prop :=
  ∀ s t : State, exec .init s = .next t →
    exec .init t = .next { t with hist := t.hist ++ [.wr .brr s.cfg.bitRateDivisor, .wr .psr 0x01] }

/-- What `TXB` and `RXB` hold when a step begins never matters (R12, R13): two machines that differ at most there do the same, and then still differ at most
there. So the free values they hold after reset cannot be observed. -/
def Obligations.StaleBuffersUnobservable : Prop :=
  ∀ s s' : State, SameButBuffers s s' → AlikeButBuffers (step s) (step s')

/-- The intent trace of a composite, from its issue to its return, however many polls its waits took (R121, R90 to R92): START, address byte, data byte (0x00 in a
read: the placeholder), STOP, in that order, if it returns OK or with a fault of its data phase; up to the failed phase and then STOP otherwise. -/
def Obligations.CompositeIntentTraces : Prop :=
  ∀ (s t u : State) (n : Nat) (r : ResultWord), s.inputs = [] →
    Host.Core.run Sys2Proof.core n t = .next u → u.cur = none → u.res = some r →
    (∀ addr data, exec (.writeTransaction addr data) s = .next t →
      ∃ e, u.hist = s.hist ++ e ∧ CompositeIntent (addressByte addr .write) data r e) ∧
    (∀ addr, exec (.readTransaction addr) s = .next t →
      ∃ e, u.hist = s.hist ++ e ∧ CompositeIntent (addressByte addr .read) 0x00 r e)

/-! ### Commands return under Responsive, and RefBus -/

/-- Under Responsive every admitted command returns (R114): after some number of steps it has produced its result word. -/
def Obligations.CommandsReturnWhenResponsive : Prop :=
  ∀ (i : Instr) (s : State), i.isCommand = true → Admitted i s → s.inputs = [] → s.bus.Responsive →
    ∃ t n u, exec i s = .next t ∧ Host.Core.run Sys2Proof.core n t = .next u ∧ u.cur = none ∧ u.res ≠ none

/-- RefBus with `dead` false is Responsive (R125). -/
def Obligations.RefBusResponsive : Prop :=
  ∀ (b : Bus) (cfg : RefBusConfig) (h : RefBusState), b.isRefBus cfg h → cfg.dead = false → b.Responsive

/-- The hang (R118, R122, R156; program P8 of 95_test_vectors.md): with `dead` every START or byte action leaves RefBus with the flag clear and nothing pending; a
wait there never ends, every further step being one more poll that changes nothing else; so every command with a wait, issued with `dead`, is in flight without a
result for ever. The run has then not ended (R166), and has not when a word is presented and refused: so P8 has it; that it is so for an illegal word too is the
model's choice (log 20). -/
def Obligations.RefBusHangs : Prop :=
  (∀ (b : Bus) (cfg : RefBusConfig) (h : RefBusState) (w : ControlWord), b.isRefBus cfg h → cfg.dead = true → w ≠ .stop →
    ∃ h', (b.write .cr w.byte).isRefBus cfg h' ∧ h'.flag = false ∧ h'.pend = none) ∧
  (∀ (s : State) (c : Cur) (cfg : RefBusConfig) (h : RefBusState) (n : Nat),
    EngineInv s → s.cur = some c → s.inputs = [] → s.bus.isRefBus cfg h → h.flag = false → h.pend = none →
    Host.Core.run Sys2Proof.core n s =
      .next { s with hist := s.hist ++ List.replicate n (.rd .cr (s.bus.ctl.cr &&& 0x6F)) }) ∧
  ∀ (i : Instr) (s : State) (cfg : RefBusConfig) (h : RefBusState) (n : Nat),
    Admitted i s → i ≠ .init → i ≠ .stop → s.inputs = [] → s.bus.isRefBus cfg h → cfg.dead = true →
    ∃ t, exec i s = .next t ∧ t.cur ≠ none ∧ t.res = none ∧
      Host.Core.run Sys2Proof.core n t =
        .next { t with hist := t.hist ++ List.replicate n (.rd .cr (t.bus.ctl.cr &&& 0x6F)) } ∧
      Hangs t ∧ ∀ w, Judged { t with inputs := [.issueNow w] } .notEnded

/-- RefBus with a pending outcome and countdown `n`: the first `n` reads of `CR` see the flag clear and the next sees it set, with the outcome in `SR` and `DR`
(R122). -/
def Obligations.RefBusPollCount : Prop :=
  ∀ (b : Bus) (cfg : RefBusConfig) (h : RefBusState) (sr dr : Byte) (n : Nat),
    b.isRefBus cfg h → h.flag = false → h.pend = some ⟨sr, dr, n⟩ →
    (∀ k, k < n → completionFlag ((b.afterPolls k).read .cr).1 = false) ∧
    completionFlag ((b.afterPolls n).read .cr).1 = true ∧
    ((b.afterPolls (n + 1)).read .sr).1 = (sr &&& 0xF8) ||| cfg.srLow.setWidth 8 ∧
    ((b.afterPolls (n + 1)).read .dr).1 = dr

/-- RefBus meets contract K3: once set, the flag stays set and `SR` keeps its code through any accesses but a write of `CR` (R111, R125; that a write of `SR` is none
that changes it is the model's reading, log 19). -/
def Obligations.RefBusFlagStays : Prop :=
  ∀ (b : Bus) (cfg : RefBusConfig) (h : RefBusState) (l : List Access),
    b.isRefBus cfg h → h.flag = true → h.pend = none → (∀ a ∈ l, ∀ v, a ≠ .write .cr v) →
    completionFlag ((b.accesses l).read .cr).1 = true ∧ ((b.accesses l).read .sr).1 = (b.read .sr).1

/-- Against a RefBus device that acknowledges, with immediate completion, WRITE_TRANSACTION completes with no fault and the wire carries exactly START, address byte,
data byte, STOP (R120, R121, and the source's property 2 of 95_test_vectors.md S6). -/
def Obligations.RefBusWriteTransaction : Prop :=
  ∀ (addr : Addr) (data : Byte) (s : State) (cfg : RefBusConfig) (h : RefBusState),
    Admitted (.writeTransaction addr data) s → s.cfg.wellFormed = true → s.bus.isRefBus cfg h → cfg.st = s.cfg.status →
    cfg.present = true → cfg.nackAddr = false → cfg.nackData = false → cfg.arbLose = .never → cfg.dead = false →
    cfg.pollDelay = 0 → cfg.devAddr = addr → h.phase = .free →
    ∃ t h', exec (.writeTransaction addr data) s = .next t ∧ t.res = some 0x000 ∧ t.fsm = .complete ∧ t.bus.isRefBus cfg h' ∧
      h'.phase = .free ∧ h'.devReg = data ∧
      h'.wire = h.wire ++ [.startCond, .sent (addressByte addr .write) true, .sent data true, .stopCond]

/-- Against the same device READ_TRANSACTION returns the byte the device holds, and leaves it (R120, and properties 3 and 6 of the source, 95_test_vectors.md
S7, S10). -/
def Obligations.RefBusReadTransaction : Prop :=
  ∀ (addr : Addr) (s : State) (cfg : RefBusConfig) (h : RefBusState),
    Admitted (.readTransaction addr) s → s.cfg.wellFormed = true → s.bus.isRefBus cfg h → cfg.st = s.cfg.status →
    cfg.present = true → cfg.nackAddr = false → cfg.failRead = false → cfg.arbLose = .never → cfg.dead = false →
    cfg.pollDelay = 0 → cfg.devAddr = addr → h.phase = .free →
    ∃ t h', exec (.readTransaction addr) s = .next t ∧ t.res = some (resultWord none h.devReg) ∧ t.rxb = h.devReg ∧
      t.fsm = .complete ∧ t.bus.isRefBus cfg h' ∧ h'.phase = .free ∧ h'.devReg = h.devReg ∧
      h'.wire = h.wire ++ [.startCond, .sent (addressByte addr .read) true, .received h.devReg true, .stopCond]

/-- Against an absent device, with immediate completion, START reports `AddressNack` and no data phase is clocked (R120, R132; property 4 of the source). On a
table that makes 0x20 or 0x48 an expected code this rests on the model's choice that the code put in its place is no entry of the table (log 4). -/
def Obligations.RefBusAbsentDevice : Prop :=
  ∀ (addr : Addr) (dir : Direction) (s : State) (cfg : RefBusConfig) (h : RefBusState),
    Admitted (.start addr dir) s → s.cfg.wellFormed = true → s.bus.isRefBus cfg h → cfg.st = s.cfg.status →
    cfg.present = false → cfg.arbLose = .never → cfg.dead = false → cfg.pollDelay = 0 → h.phase = .free →
    s.cfg.status.arbLost ≠ 0x20 → s.cfg.status.arbLost ≠ 0x48 →
    ∃ t h', exec (.start addr dir) s = .next t ∧ t.res = some (resultWord (some .addressNack) 0x00) ∧ t.fsm = .faulted ∧
      t.bus.isRefBus cfg h' ∧ h'.wire = h.wire ++ [.startCond, .sent (addressByte addr dir) false]

/-- RefBus on STOP (R119): `P` goes on the wire if this master holds the bus, the bus is then free, and no completion is signalled. -/
def Obligations.RefBusStopReleases : Prop :=
  ∀ (s t : State) (cfg : RefBusConfig) (h : RefBusState), s.bus.isRefBus cfg h → exec .stop s = .next t →
    ∃ h', t.bus.isRefBus cfg h' ∧ h'.phase = .free ∧ h'.flag = false ∧ h'.pend = none ∧ h'.devReg = h.devReg ∧
      h'.wire = h.wire ++ (if h.phase = .free ∨ h.phase = .lost then [] else [.stopCond])

/-- A reset of the engine does not reset RefBus (R124, R151): in a transaction the bus stays held, INIT and then START give `StartFailed`, and the STOP that follows
frees the bus (95_test_vectors.md V92). -/
def Obligations.RefBusHeldAfterReset : Prop :=
  ∀ (addr : Addr) (dir : Direction) (s : State) (rest : List Input) (cfg : RefBusConfig) (h : RefBusState),
    s.cfg.wellFormed = true → s.bus.isRefBus cfg h → cfg.st = s.cfg.status → s.cfg.status.arbLost ≠ 0x10 →
    s.cfg.status.start ≠ 0x10 →
    cfg.dead = false → cfg.pollDelay = 0 → cfg.arbLose ≠ .atStart →
    (h.phase = .owned ∨ h.phase = .addrW ∨ h.phase = .addrR) → s.inputs = .reset 0 :: rest →
    ∃ t u v x h', step s = .next t ∧ t.bus.isRefBus cfg h ∧ exec .init t = .next u ∧ exec (.start addr dir) u = .next v ∧
      v.res = some (resultWord (some .startFailed) 0x00) ∧ v.fsm = .faulted ∧ exec .stop v = .next x ∧ x.fsm = .idle ∧
      x.bus.isRefBus cfg h' ∧ h'.phase = .free ∧ h'.wire = h.wire ++ [.startCond, .stopCond]

/-- The engine does not remember the direction (R86, R162; decision D23): against a RefBus that acknowledges, completes at once and loses no arbitration, on a table whose
two data acknowledgements differ, READ_BYTE in a write transaction is admitted, writes 0x00 to the device and ends in `ReadError`; WRITE_BYTE in
a read transaction is admitted, reads a byte on the wire and ends in `DataNack`. -/
def Obligations.RefBusDirectionMismatch : Prop :=
  ∀ (data : Byte) (s : State) (cfg : RefBusConfig) (h : RefBusState),
    s.cfg.wellFormed = true → s.bus.isRefBus cfg h → cfg.st = s.cfg.status → s.cfg.status.dataTxAck ≠ s.cfg.status.dataRxAck →
    cfg.dead = false → cfg.pollDelay = 0 → cfg.arbLose = .never →
    (Admitted .readByte s → h.phase = .addrW → cfg.nackData = false →
      ∃ t h', exec .readByte s = .next t ∧ t.res = some (resultWord (some .readError) 0x00) ∧ t.fsm = .faulted ∧
        t.bus.isRefBus cfg h' ∧ h'.devReg = 0x00 ∧ h'.wire = h.wire ++ [.sent 0x00 true]) ∧
    (Admitted (.writeByte data) s → h.phase = .addrR → cfg.failRead = false →
      ∃ t h', exec (.writeByte data) s = .next t ∧ t.res = some (resultWord (some .dataNack) 0x00) ∧ t.fsm = .faulted ∧
        t.bus.isRefBus cfg h' ∧ h'.devReg = h.devReg ∧ h'.wire = h.wire ++ [.received h.devReg true])

/-! ### The surface syntax -/

/-- A line of assembly is an error exactly when an operand does not fit its field: an address above 127, a byte above 255 (R65). -/
def Obligations.OperandRangeErrors : Prop :=
  ∀ a r b : Nat, ∀ d : Direction,
    (assemble (.start a d) = none ↔ 127 < a) ∧ (assemble (.probe a d) = none ↔ 127 < a) ∧
    (assemble (.readTransaction a) = none ↔ 127 < a) ∧ (assemble (.writeByte b) = none ↔ 255 < b) ∧
    (assemble (.writeTransaction a b) = none ↔ (127 < a ∨ 255 < b)) ∧
    (assemble (.writeReg a r b) = none ↔ (127 < a ∨ 255 < r ∨ 255 < b)) ∧
    (a ≤ 127 → r ≤ 255 → b ≤ 255 → assemble (.writeReg a r b) =
      some [.start (BitVec.ofNat 7 a) .write, .writeByte (BitVec.ofNat 8 r), .writeByte (BitVec.ofNat 8 b), .stop])
end

