-- ==== Sys2Proof/Laws/State.lean ====
section
/-! SUPPORT. One lemma per field of State per update: what the update leaves in that field. -/

namespace Sys2Proof.Machine

@[simp] theorem State.withFsm_fsm (v : Fsm) (s : State) : (s.withFsm v).fsm = v := rfl
@[simp] theorem State.withFsm_txb (v : Fsm) (s : State) : (s.withFsm v).txb = s.txb := rfl
@[simp] theorem State.withFsm_rxb (v : Fsm) (s : State) : (s.withFsm v).rxb = s.rxb := rfl
@[simp] theorem State.withFsm_initd (v : Fsm) (s : State) : (s.withFsm v).initd = s.initd := rfl
@[simp] theorem State.withFsm_cur (v : Fsm) (s : State) : (s.withFsm v).cur = s.cur := rfl
@[simp] theorem State.withFsm_hist (v : Fsm) (s : State) : (s.withFsm v).hist = s.hist := rfl
@[simp] theorem State.withFsm_res (v : Fsm) (s : State) : (s.withFsm v).res = s.res := rfl
@[simp] theorem State.withFsm_bus (v : Fsm) (s : State) : (s.withFsm v).bus = s.bus := rfl
@[simp] theorem State.withFsm_inputs (v : Fsm) (s : State) : (s.withFsm v).inputs = s.inputs := rfl
@[simp] theorem State.withFsm_cfg (v : Fsm) (s : State) : (s.withFsm v).cfg = s.cfg := rfl

@[simp] theorem State.withTxb_fsm (v : Byte) (s : State) : (s.withTxb v).fsm = s.fsm := rfl
@[simp] theorem State.withTxb_txb (v : Byte) (s : State) : (s.withTxb v).txb = v := rfl
@[simp] theorem State.withTxb_rxb (v : Byte) (s : State) : (s.withTxb v).rxb = s.rxb := rfl
@[simp] theorem State.withTxb_initd (v : Byte) (s : State) : (s.withTxb v).initd = s.initd := rfl
@[simp] theorem State.withTxb_cur (v : Byte) (s : State) : (s.withTxb v).cur = s.cur := rfl
@[simp] theorem State.withTxb_hist (v : Byte) (s : State) : (s.withTxb v).hist = s.hist := rfl
@[simp] theorem State.withTxb_res (v : Byte) (s : State) : (s.withTxb v).res = s.res := rfl
@[simp] theorem State.withTxb_bus (v : Byte) (s : State) : (s.withTxb v).bus = s.bus := rfl
@[simp] theorem State.withTxb_inputs (v : Byte) (s : State) : (s.withTxb v).inputs = s.inputs := rfl
@[simp] theorem State.withTxb_cfg (v : Byte) (s : State) : (s.withTxb v).cfg = s.cfg := rfl

@[simp] theorem State.withRxb_fsm (v : Byte) (s : State) : (s.withRxb v).fsm = s.fsm := rfl
@[simp] theorem State.withRxb_txb (v : Byte) (s : State) : (s.withRxb v).txb = s.txb := rfl
@[simp] theorem State.withRxb_rxb (v : Byte) (s : State) : (s.withRxb v).rxb = v := rfl
@[simp] theorem State.withRxb_initd (v : Byte) (s : State) : (s.withRxb v).initd = s.initd := rfl
@[simp] theorem State.withRxb_cur (v : Byte) (s : State) : (s.withRxb v).cur = s.cur := rfl
@[simp] theorem State.withRxb_hist (v : Byte) (s : State) : (s.withRxb v).hist = s.hist := rfl
@[simp] theorem State.withRxb_res (v : Byte) (s : State) : (s.withRxb v).res = s.res := rfl
@[simp] theorem State.withRxb_bus (v : Byte) (s : State) : (s.withRxb v).bus = s.bus := rfl
@[simp] theorem State.withRxb_inputs (v : Byte) (s : State) : (s.withRxb v).inputs = s.inputs := rfl
@[simp] theorem State.withRxb_cfg (v : Byte) (s : State) : (s.withRxb v).cfg = s.cfg := rfl

@[simp] theorem State.withInitd_fsm (v : Bool) (s : State) : (s.withInitd v).fsm = s.fsm := rfl
@[simp] theorem State.withInitd_txb (v : Bool) (s : State) : (s.withInitd v).txb = s.txb := rfl
@[simp] theorem State.withInitd_rxb (v : Bool) (s : State) : (s.withInitd v).rxb = s.rxb := rfl
@[simp] theorem State.withInitd_initd (v : Bool) (s : State) : (s.withInitd v).initd = v := rfl
@[simp] theorem State.withInitd_cur (v : Bool) (s : State) : (s.withInitd v).cur = s.cur := rfl
@[simp] theorem State.withInitd_hist (v : Bool) (s : State) : (s.withInitd v).hist = s.hist := rfl
@[simp] theorem State.withInitd_res (v : Bool) (s : State) : (s.withInitd v).res = s.res := rfl
@[simp] theorem State.withInitd_bus (v : Bool) (s : State) : (s.withInitd v).bus = s.bus := rfl
@[simp] theorem State.withInitd_inputs (v : Bool) (s : State) : (s.withInitd v).inputs = s.inputs := rfl
@[simp] theorem State.withInitd_cfg (v : Bool) (s : State) : (s.withInitd v).cfg = s.cfg := rfl

@[simp] theorem State.withCur_fsm (v : Option Cur) (s : State) : (s.withCur v).fsm = s.fsm := rfl
@[simp] theorem State.withCur_txb (v : Option Cur) (s : State) : (s.withCur v).txb = s.txb := rfl
@[simp] theorem State.withCur_rxb (v : Option Cur) (s : State) : (s.withCur v).rxb = s.rxb := rfl
@[simp] theorem State.withCur_initd (v : Option Cur) (s : State) : (s.withCur v).initd = s.initd := rfl
@[simp] theorem State.withCur_cur (v : Option Cur) (s : State) : (s.withCur v).cur = v := rfl
@[simp] theorem State.withCur_hist (v : Option Cur) (s : State) : (s.withCur v).hist = s.hist := rfl
@[simp] theorem State.withCur_res (v : Option Cur) (s : State) : (s.withCur v).res = s.res := rfl
@[simp] theorem State.withCur_bus (v : Option Cur) (s : State) : (s.withCur v).bus = s.bus := rfl
@[simp] theorem State.withCur_inputs (v : Option Cur) (s : State) : (s.withCur v).inputs = s.inputs := rfl
@[simp] theorem State.withCur_cfg (v : Option Cur) (s : State) : (s.withCur v).cfg = s.cfg := rfl

@[simp] theorem State.withRes_fsm (v : Option ResultWord) (s : State) : (s.withRes v).fsm = s.fsm := rfl
@[simp] theorem State.withRes_txb (v : Option ResultWord) (s : State) : (s.withRes v).txb = s.txb := rfl
@[simp] theorem State.withRes_rxb (v : Option ResultWord) (s : State) : (s.withRes v).rxb = s.rxb := rfl
@[simp] theorem State.withRes_initd (v : Option ResultWord) (s : State) : (s.withRes v).initd = s.initd := rfl
@[simp] theorem State.withRes_cur (v : Option ResultWord) (s : State) : (s.withRes v).cur = s.cur := rfl
@[simp] theorem State.withRes_hist (v : Option ResultWord) (s : State) : (s.withRes v).hist = s.hist := rfl
@[simp] theorem State.withRes_res (v : Option ResultWord) (s : State) : (s.withRes v).res = v := rfl
@[simp] theorem State.withRes_bus (v : Option ResultWord) (s : State) : (s.withRes v).bus = s.bus := rfl
@[simp] theorem State.withRes_inputs (v : Option ResultWord) (s : State) : (s.withRes v).inputs = s.inputs := rfl
@[simp] theorem State.withRes_cfg (v : Option ResultWord) (s : State) : (s.withRes v).cfg = s.cfg := rfl

@[simp] theorem State.withBus_fsm (v : Bus) (s : State) : (s.withBus v).fsm = s.fsm := rfl
@[simp] theorem State.withBus_txb (v : Bus) (s : State) : (s.withBus v).txb = s.txb := rfl
@[simp] theorem State.withBus_rxb (v : Bus) (s : State) : (s.withBus v).rxb = s.rxb := rfl
@[simp] theorem State.withBus_initd (v : Bus) (s : State) : (s.withBus v).initd = s.initd := rfl
@[simp] theorem State.withBus_cur (v : Bus) (s : State) : (s.withBus v).cur = s.cur := rfl
@[simp] theorem State.withBus_hist (v : Bus) (s : State) : (s.withBus v).hist = s.hist := rfl
@[simp] theorem State.withBus_res (v : Bus) (s : State) : (s.withBus v).res = s.res := rfl
@[simp] theorem State.withBus_bus (v : Bus) (s : State) : (s.withBus v).bus = v := rfl
@[simp] theorem State.withBus_inputs (v : Bus) (s : State) : (s.withBus v).inputs = s.inputs := rfl
@[simp] theorem State.withBus_cfg (v : Bus) (s : State) : (s.withBus v).cfg = s.cfg := rfl

@[simp] theorem State.withInputs_fsm (v : List Input) (s : State) : (s.withInputs v).fsm = s.fsm := rfl
@[simp] theorem State.withInputs_txb (v : List Input) (s : State) : (s.withInputs v).txb = s.txb := rfl
@[simp] theorem State.withInputs_rxb (v : List Input) (s : State) : (s.withInputs v).rxb = s.rxb := rfl
@[simp] theorem State.withInputs_initd (v : List Input) (s : State) : (s.withInputs v).initd = s.initd := rfl
@[simp] theorem State.withInputs_cur (v : List Input) (s : State) : (s.withInputs v).cur = s.cur := rfl
@[simp] theorem State.withInputs_hist (v : List Input) (s : State) : (s.withInputs v).hist = s.hist := rfl
@[simp] theorem State.withInputs_res (v : List Input) (s : State) : (s.withInputs v).res = s.res := rfl
@[simp] theorem State.withInputs_bus (v : List Input) (s : State) : (s.withInputs v).bus = s.bus := rfl
@[simp] theorem State.withInputs_inputs (v : List Input) (s : State) : (s.withInputs v).inputs = v := rfl
@[simp] theorem State.withInputs_cfg (v : List Input) (s : State) : (s.withInputs v).cfg = s.cfg := rfl

@[simp] theorem State.record_fsm (v : Event) (s : State) : (s.record v).fsm = s.fsm := rfl
@[simp] theorem State.record_txb (v : Event) (s : State) : (s.record v).txb = s.txb := rfl
@[simp] theorem State.record_rxb (v : Event) (s : State) : (s.record v).rxb = s.rxb := rfl
@[simp] theorem State.record_initd (v : Event) (s : State) : (s.record v).initd = s.initd := rfl
@[simp] theorem State.record_cur (v : Event) (s : State) : (s.record v).cur = s.cur := rfl
@[simp] theorem State.record_hist (v : Event) (s : State) : (s.record v).hist = s.hist ++ [v] := rfl
@[simp] theorem State.record_res (v : Event) (s : State) : (s.record v).res = s.res := rfl
@[simp] theorem State.record_bus (v : Event) (s : State) : (s.record v).bus = s.bus := rfl
@[simp] theorem State.record_inputs (v : Event) (s : State) : (s.record v).inputs = s.inputs := rfl
@[simp] theorem State.record_cfg (v : Event) (s : State) : (s.record v).cfg = s.cfg := rfl

@[simp] theorem State.goTo_fsm (c : Cur) (n : Nat) (s : State) : (s.goTo c n).fsm = s.fsm := rfl
@[simp] theorem State.goTo_txb (c : Cur) (n : Nat) (s : State) : (s.goTo c n).txb = s.txb := rfl
@[simp] theorem State.goTo_rxb (c : Cur) (n : Nat) (s : State) : (s.goTo c n).rxb = s.rxb := rfl
@[simp] theorem State.goTo_initd (c : Cur) (n : Nat) (s : State) : (s.goTo c n).initd = s.initd := rfl
@[simp] theorem State.goTo_cur (c : Cur) (n : Nat) (s : State) : (s.goTo c n).cur = some { c with seq := n } := rfl
@[simp] theorem State.goTo_hist (c : Cur) (n : Nat) (s : State) : (s.goTo c n).hist = s.hist := rfl
@[simp] theorem State.goTo_res (c : Cur) (n : Nat) (s : State) : (s.goTo c n).res = s.res := rfl
@[simp] theorem State.goTo_bus (c : Cur) (n : Nat) (s : State) : (s.goTo c n).bus = s.bus := rfl
@[simp] theorem State.goTo_inputs (c : Cur) (n : Nat) (s : State) : (s.goTo c n).inputs = s.inputs := rfl
@[simp] theorem State.goTo_cfg (c : Cur) (n : Nat) (s : State) : (s.goTo c n).cfg = s.cfg := rfl

@[simp] theorem State.finish_fsm (flt : Option BusFault) (b : Byte) (s : State) : (s.finish flt b).fsm = s.fsm := rfl
@[simp] theorem State.finish_txb (flt : Option BusFault) (b : Byte) (s : State) : (s.finish flt b).txb = s.txb := rfl
@[simp] theorem State.finish_rxb (flt : Option BusFault) (b : Byte) (s : State) : (s.finish flt b).rxb = s.rxb := rfl
@[simp] theorem State.finish_initd (flt : Option BusFault) (b : Byte) (s : State) : (s.finish flt b).initd = s.initd := rfl
@[simp] theorem State.finish_cur (flt : Option BusFault) (b : Byte) (s : State) : (s.finish flt b).cur = none := rfl
@[simp] theorem State.finish_hist (flt : Option BusFault) (b : Byte) (s : State) : (s.finish flt b).hist = s.hist := rfl
@[simp] theorem State.finish_res (flt : Option BusFault) (b : Byte) (s : State) : (s.finish flt b).res = some (resultWord flt b) := rfl
@[simp] theorem State.finish_bus (flt : Option BusFault) (b : Byte) (s : State) : (s.finish flt b).bus = s.bus := rfl
@[simp] theorem State.finish_inputs (flt : Option BusFault) (b : Byte) (s : State) : (s.finish flt b).inputs = s.inputs := rfl
@[simp] theorem State.finish_cfg (flt : Option BusFault) (b : Byte) (s : State) : (s.finish flt b).cfg = s.cfg := rfl

@[simp] theorem State.memWrite_fsm (r : Reg) (v : Byte) (s : State) : (s.memWrite r v).fsm = s.fsm := rfl
@[simp] theorem State.memWrite_txb (r : Reg) (v : Byte) (s : State) : (s.memWrite r v).txb = s.txb := rfl
@[simp] theorem State.memWrite_rxb (r : Reg) (v : Byte) (s : State) : (s.memWrite r v).rxb = s.rxb := rfl
@[simp] theorem State.memWrite_initd (r : Reg) (v : Byte) (s : State) : (s.memWrite r v).initd = s.initd := rfl
@[simp] theorem State.memWrite_cur (r : Reg) (v : Byte) (s : State) : (s.memWrite r v).cur = s.cur := rfl
@[simp] theorem State.memWrite_hist (r : Reg) (v : Byte) (s : State) : (s.memWrite r v).hist = s.hist ++ [.wr r v] := rfl
@[simp] theorem State.memWrite_res (r : Reg) (v : Byte) (s : State) : (s.memWrite r v).res = s.res := rfl
@[simp] theorem State.memWrite_bus (r : Reg) (v : Byte) (s : State) : (s.memWrite r v).bus = s.bus.write r v := rfl
@[simp] theorem State.memWrite_inputs (r : Reg) (v : Byte) (s : State) : (s.memWrite r v).inputs = s.inputs := rfl
@[simp] theorem State.memWrite_cfg (r : Reg) (v : Byte) (s : State) : (s.memWrite r v).cfg = s.cfg := rfl

@[simp] theorem State.assertWord_fsm (w : ControlWord) (s : State) : (s.assertWord w).fsm = s.fsm := rfl
@[simp] theorem State.assertWord_txb (w : ControlWord) (s : State) : (s.assertWord w).txb = s.txb := rfl
@[simp] theorem State.assertWord_rxb (w : ControlWord) (s : State) : (s.assertWord w).rxb = s.rxb := rfl
@[simp] theorem State.assertWord_initd (w : ControlWord) (s : State) : (s.assertWord w).initd = s.initd := rfl
@[simp] theorem State.assertWord_cur (w : ControlWord) (s : State) : (s.assertWord w).cur = s.cur := rfl
@[simp] theorem State.assertWord_hist (w : ControlWord) (s : State) : (s.assertWord w).hist = s.hist ++ [.wr .cr w.byte] := rfl
@[simp] theorem State.assertWord_res (w : ControlWord) (s : State) : (s.assertWord w).res = s.res := rfl
@[simp] theorem State.assertWord_bus (w : ControlWord) (s : State) : (s.assertWord w).bus = s.bus.write .cr w.byte := rfl
@[simp] theorem State.assertWord_inputs (w : ControlWord) (s : State) : (s.assertWord w).inputs = s.inputs := rfl
@[simp] theorem State.assertWord_cfg (w : ControlWord) (s : State) : (s.assertWord w).cfg = s.cfg := rfl

@[simp] theorem State.writeData_fsm (b : Byte) (s : State) : (s.writeData b).fsm = s.fsm := rfl
@[simp] theorem State.writeData_txb (b : Byte) (s : State) : (s.writeData b).txb = b := rfl
@[simp] theorem State.writeData_rxb (b : Byte) (s : State) : (s.writeData b).rxb = s.rxb := rfl
@[simp] theorem State.writeData_initd (b : Byte) (s : State) : (s.writeData b).initd = s.initd := rfl
@[simp] theorem State.writeData_cur (b : Byte) (s : State) : (s.writeData b).cur = s.cur := rfl
@[simp] theorem State.writeData_hist (b : Byte) (s : State) : (s.writeData b).hist = s.hist ++ [.wr .dr b] := rfl
@[simp] theorem State.writeData_res (b : Byte) (s : State) : (s.writeData b).res = s.res := rfl
@[simp] theorem State.writeData_bus (b : Byte) (s : State) : (s.writeData b).bus = s.bus.write .dr b := rfl
@[simp] theorem State.writeData_inputs (b : Byte) (s : State) : (s.writeData b).inputs = s.inputs := rfl
@[simp] theorem State.writeData_cfg (b : Byte) (s : State) : (s.writeData b).cfg = s.cfg := rfl

@[simp] theorem State.readData_fsm (s : State) : s.readData.fsm = s.fsm := rfl
@[simp] theorem State.readData_txb (s : State) : s.readData.txb = s.txb := rfl
@[simp] theorem State.readData_rxb (s : State) : s.readData.rxb = (s.bus.read .dr).1 := rfl
@[simp] theorem State.readData_initd (s : State) : s.readData.initd = s.initd := rfl
@[simp] theorem State.readData_cur (s : State) : s.readData.cur = s.cur := rfl
@[simp] theorem State.readData_hist (s : State) : s.readData.hist = s.hist ++ [.rd .dr (s.bus.read .dr).1] := rfl
@[simp] theorem State.readData_res (s : State) : s.readData.res = s.res := rfl
@[simp] theorem State.readData_bus (s : State) : s.readData.bus = (s.bus.read .dr).2 := rfl
@[simp] theorem State.readData_inputs (s : State) : s.readData.inputs = s.inputs := rfl
@[simp] theorem State.readData_cfg (s : State) : s.readData.cfg = s.cfg := rfl

@[simp] theorem State.configureBitRate_fsm (s : State) : s.configureBitRate.fsm = s.fsm := rfl
@[simp] theorem State.configureBitRate_txb (s : State) : s.configureBitRate.txb = s.txb := rfl
@[simp] theorem State.configureBitRate_rxb (s : State) : s.configureBitRate.rxb = s.rxb := rfl
@[simp] theorem State.configureBitRate_initd (s : State) : s.configureBitRate.initd = s.initd := rfl
@[simp] theorem State.configureBitRate_cur (s : State) : s.configureBitRate.cur = s.cur := rfl
@[simp] theorem State.configureBitRate_hist (s : State) : s.configureBitRate.hist = s.hist ++ [.wr .brr s.cfg.bitRateDivisor] := rfl
@[simp] theorem State.configureBitRate_res (s : State) : s.configureBitRate.res = s.res := rfl
@[simp] theorem State.configureBitRate_bus (s : State) : s.configureBitRate.bus = s.bus.write .brr s.cfg.bitRateDivisor := rfl
@[simp] theorem State.configureBitRate_inputs (s : State) : s.configureBitRate.inputs = s.inputs := rfl
@[simp] theorem State.configureBitRate_cfg (s : State) : s.configureBitRate.cfg = s.cfg := rfl

@[simp] theorem State.configurePrescaler_fsm (s : State) : s.configurePrescaler.fsm = s.fsm := rfl
@[simp] theorem State.configurePrescaler_txb (s : State) : s.configurePrescaler.txb = s.txb := rfl
@[simp] theorem State.configurePrescaler_rxb (s : State) : s.configurePrescaler.rxb = s.rxb := rfl
@[simp] theorem State.configurePrescaler_initd (s : State) : s.configurePrescaler.initd = s.initd := rfl
@[simp] theorem State.configurePrescaler_cur (s : State) : s.configurePrescaler.cur = s.cur := rfl
@[simp] theorem State.configurePrescaler_hist (s : State) : s.configurePrescaler.hist = s.hist ++ [.wr .psr prescaler] := rfl
@[simp] theorem State.configurePrescaler_res (s : State) : s.configurePrescaler.res = s.res := rfl
@[simp] theorem State.configurePrescaler_bus (s : State) : s.configurePrescaler.bus = s.bus.write .psr prescaler := rfl
@[simp] theorem State.configurePrescaler_inputs (s : State) : s.configurePrescaler.inputs = s.inputs := rfl
@[simp] theorem State.configurePrescaler_cfg (s : State) : s.configurePrescaler.cfg = s.cfg := rfl

@[simp] theorem State.stopBody_fsm (s : State) : s.stopBody.fsm = fsmAfterStop s.fsm := rfl
@[simp] theorem State.stopBody_txb (s : State) : s.stopBody.txb = s.txb := rfl
@[simp] theorem State.stopBody_rxb (s : State) : s.stopBody.rxb = s.rxb := rfl
@[simp] theorem State.stopBody_initd (s : State) : s.stopBody.initd = s.initd := rfl
@[simp] theorem State.stopBody_cur (s : State) : s.stopBody.cur = s.cur := rfl
@[simp] theorem State.stopBody_hist (s : State) : s.stopBody.hist = s.hist ++ [.wr .cr ControlWord.stop.byte] := rfl
@[simp] theorem State.stopBody_res (s : State) : s.stopBody.res = s.res := rfl
@[simp] theorem State.stopBody_bus (s : State) : s.stopBody.bus = s.bus.write .cr ControlWord.stop.byte := rfl
@[simp] theorem State.stopBody_inputs (s : State) : s.stopBody.inputs = s.inputs := rfl
@[simp] theorem State.stopBody_cfg (s : State) : s.stopBody.cfg = s.cfg := rfl

@[simp] theorem State.engineReset_fsm (s : State) : s.engineReset.fsm = .idle := rfl
@[simp] theorem State.engineReset_txb (s : State) : s.engineReset.txb = Config.freeByte s.bus.draws := rfl
@[simp] theorem State.engineReset_rxb (s : State) : s.engineReset.rxb = Config.freeByte (s.bus.draws + 1) := rfl
@[simp] theorem State.engineReset_initd (s : State) : s.engineReset.initd = false := rfl
@[simp] theorem State.engineReset_cur (s : State) : s.engineReset.cur = none := rfl
@[simp] theorem State.engineReset_hist (s : State) : s.engineReset.hist = [] := rfl
@[simp] theorem State.engineReset_res (s : State) : s.engineReset.res = none := rfl
@[simp] theorem State.engineReset_bus (s : State) : s.engineReset.bus = { s.bus with draws := s.bus.draws + 2 } := rfl
@[simp] theorem State.engineReset_inputs (s : State) : s.engineReset.inputs = s.inputs := rfl
@[simp] theorem State.engineReset_cfg (s : State) : s.engineReset.cfg = s.cfg := rfl

end Sys2Proof.Machine
end

