-- ==== Sys2Proof/Laws/Ops.lean ====
section
/-! SUPPORT. One lemma per shared operation, saying once everything it can do. -/

namespace Sys2Proof.Machine

/-- The control words as bytes (R54). -/
@[simp] theorem ControlWord.byte_start : ControlWord.start.byte = 0xA4 := by decide
@[simp] theorem ControlWord.byte_clock : ControlWord.clock.byte = 0xC4 := by decide
@[simp] theorem ControlWord.byte_stop : ControlWord.stop.byte = 0x94 := by decide

/-- A read of a register: the answer, the bus after it, the event (R33). -/
theorem State.memRead_eq (r : Reg) (s : State) :
    s.memRead r =
      ((s.bus.read r).1, { s with bus := (s.bus.read r).2, hist := s.hist ++ [.rd r (s.bus.read r).1] }) := rfl

/-- The oracle answers in the order of its list (R113). -/
@[simp] theorem Bus.read_oracle (ctl : ControllerRegs) (v : Byte) (rest : List Byte) (n : Nat) (r : Reg) :
    (Bus.mk ctl (.oracle (v :: rest)) n).read r = (v, Bus.mk (ctl.set r v) (.oracle rest) n) := rfl

/-- A write changes nothing of the oracle but the register's content (R112). -/
@[simp] theorem Bus.write_oracle (ctl : ControllerRegs) (l : List Byte) (n : Nat) (r : Reg) (v : Byte) :
    (Bus.mk ctl (.oracle l) n).write r v = Bus.mk (ctl.set r v) (.oracle l) n := rfl

/-- A poll that ends at once: the status code, and two events (R75). -/
theorem State.await_of_answers {s : State} {c v : Byte} {b : Bus} (h : s.bus.Answers c v b) :
    s.await = .done (statusCode v) { s with bus := b, hist := s.hist ++ [.rd .cr c, .rd .sr v] } := by
  obtain ⟨rfl, hc, hv⟩ := h
  simp [State.await, State.memRead_eq, hc, hv]

/-- A poll that sees the flag clear: one event (R75). -/
theorem State.await_of_busy {s : State} {c : Byte} {b : Bus} (h : s.bus.Busy c b) :
    s.await = .clear { s with bus := b, hist := s.hist ++ [.rd .cr c] } := by
  obtain ⟨hr, hc⟩ := h
  simp [State.await, State.memRead_eq, hr, hc]

/-- One turn of the poll either sees the flag clear or ends it (R75). -/
theorem Bus.busy_or_answers (b : Bus) : (∃ c b', b.Busy c b') ∨ (∃ c v b', b.Answers c v b') := by
  cases hc : completionFlag (b.read .cr).1 with
  | false => exact .inl ⟨_, _, rfl, hc⟩
  | true => exact .inr ⟨_, _, _, rfl, hc, rfl⟩

/-- AWAIT_COMPLETION and CHECK, while the flag is clear. -/
theorem awaitAndCheck_busy {exp : Byte} {kind : BusFault} {c : Cur} {f : State → State} {s : State} {x : Byte} {b : Bus}
    (h : s.bus.Busy x b) :
    awaitAndCheck exp kind c f s = .wait { s with bus := b, hist := s.hist ++ [.rd .cr x] } := by
  simp [awaitAndCheck, State.await_of_busy h]

/-- AWAIT_COMPLETION and CHECK, on the expected code. -/
theorem awaitAndCheck_pass {exp : Byte} {kind : BusFault} {c : Cur} {f : State → State} {s : State} {x v : Byte} {b : Bus}
    (h : s.bus.Answers x v b) (hv : statusCode v = exp) :
    awaitAndCheck exp kind c f s = .go (f { s with bus := b, hist := s.hist ++ [.rd .cr x, .rd .sr v] }) := by
  simp [awaitAndCheck, State.await_of_answers h, checkStatus, hv]

/-- CHECK of a code that is not the expected one (R78, R137). -/
theorem checkStatus_mismatch (t : StatusTable) {code exp : Byte} {kind : BusFault} (h : code ≠ exp) :
    checkStatus t code exp kind = some (phaseFault t code kind) := by
  by_cases ha : code = t.arbLost <;> simp [checkStatus, phaseFault, h, ha]
  exact fun h' => h (ha.trans h')

/-- AWAIT_COMPLETION and CHECK, on any other code. -/
theorem awaitAndCheck_fail {exp : Byte} {kind : BusFault} {c : Cur} {f : State → State} {s : State} {x v : Byte} {b : Bus}
    (h : s.bus.Answers x v b) (hv : statusCode v ≠ exp) :
    awaitAndCheck exp kind c f s =
      .go (State.raiseBusFault (phaseFault s.cfg.status (statusCode v) kind) c
        { s with bus := b, hist := s.hist ++ [.rd .cr x, .rd .sr v] }) := by
  simp only [awaitAndCheck, State.await_of_answers h, checkStatus_mismatch _ hv]

/-- AWAIT_COMPLETION and CHECK, everything one turn can give: the flag is clear, or the check passes, or it fails (R75, R78). -/
theorem awaitAndCheck_cases {exp : Byte} {kind : BusFault} {c : Cur} {f : State → State} {s : State} {m : Micro}
    (h : awaitAndCheck exp kind c f s = m) :
    (∃ x b, s.bus.Busy x b ∧ m = .wait { s with bus := b, hist := s.hist ++ [.rd .cr x] }) ∨
    (∃ x v b, s.bus.Answers x v b ∧ statusCode v = exp ∧
      m = .go (f { s with bus := b, hist := s.hist ++ [.rd .cr x, .rd .sr v] })) ∨
    (∃ x v b, s.bus.Answers x v b ∧ statusCode v ≠ exp ∧
      m = .go (State.raiseBusFault (phaseFault s.cfg.status (statusCode v) kind) c
        { s with bus := b, hist := s.hist ++ [.rd .cr x, .rd .sr v] })) := by
  subst h
  rcases s.bus.busy_or_answers with ⟨x, b, hb⟩ | ⟨x, v, b, hb⟩
  · exact .inl ⟨x, b, hb, awaitAndCheck_busy hb⟩
  · by_cases hv : statusCode v = exp
    · exact .inr (.inl ⟨x, v, b, hb, hv, awaitAndCheck_pass hb hv⟩)
    · exact .inr (.inr ⟨x, v, b, hb, hv, awaitAndCheck_fail hb hv⟩)

/-- Fault entry in a primitive (R139). -/
theorem State.raiseBusFault_primitive {k : BusFault} {c : Cur} {s : State} (h : closingStop c.cmd = none) :
    s.raiseBusFault k c = { s with fsm := .faulted, cur := none, res := some (resultWord (some k) 0) } := by
  simp [State.raiseBusFault, h, State.withFsm, State.finish, State.withCur, State.withRes]

/-- Fault entry in a composite (R139). -/
theorem State.raiseBusFault_composite {k : BusFault} {c : Cur} {s : State} {n : Nat} (h : closingStop c.cmd = some n) :
    s.raiseBusFault k c = { s with fsm := .faulted, cur := some { c with flt := some k, seq := n } } := by
  simp [State.raiseBusFault, h, State.withFsm, State.withCur]

/-- An admitted command becomes the command in flight (R97). -/
theorem accept_of_admitted {i : Instr} {s : State} (h : Admitted i s) :
    accept i s = .next { s with cur := some { cmd := i, seq := 1, flt := none, ret := 0x00 }, res := none } := by
  obtain ⟨h1, h2, h3⟩ := h
  cases i <;> simp_all [accept, needsInit, admits, State.withCur, State.withRes]
  tauto

/-- What an accepted command leaves (R16). -/
theorem accept_next {i : Instr} {s t : State} (h : accept i s = .next t) :
    s.cur = none ∧ t = { s with cur := some { cmd := i, seq := 1, flt := none, ret := 0x00 }, res := none } := by
  unfold accept at h
  split at h
  · cases h
  split at h
  · cases h
  split at h <;> cases h
  exact ⟨by simp_all, rfl⟩

/-- A command that is not admitted is refused (R97, R136). -/
theorem accept_of_not_admitted {i : Instr} {s : State} (hi : i.isCommand = true) (h : ¬ Admitted i s) :
    ∃ r, accept i s = .refused r := by
  unfold accept
  split
  · exact ⟨_, rfl⟩
  split
  · exact ⟨_, rfl⟩
  split
  · exfalso; apply h
    cases i <;> simp_all [Admitted, needsInit, admits, Instr.isCommand]
  · exact ⟨_, rfl⟩

/-- A machine is built exactly from a configuration that passes the check (R5), and is then its state after reset. -/
theorem State.boot_eq_some {cfg : Config} {s : State} : State.boot cfg = some s ↔ cfg.wellFormed = true ∧ s = State.resetWith cfg := by
  unfold State.boot
  split
  case isTrue h => exact ⟨fun e => ⟨h, (Option.some.inj e).symm⟩, fun e => congrArg some e.2.symm⟩
  case isFalse h => exact ⟨fun e => (by cases e), fun e => (h e.1).elim⟩

end Sys2Proof.Machine
end

