-- ==== Sys2Proof/Laws/Sequencer.lean ====
section
/-! SUPPORT. The runner of a command, one micro-step at a time. -/

namespace Sys2Proof.Machine

theorem runToWait_none {n : Nat} {s : State} (h : s.cur = none) : runToWait n s = .next s := by
  cases n <;> simp [runToWait, h]

theorem runToWait_go {n : Nat} {s s' : State} {c : Cur} (h : s.cur = some c) (hm : microStep c s = .go s') :
    runToWait (n + 1) s = runToWait n s' := by
  simp [runToWait, h, hm]

theorem runToWait_wait {n : Nat} {s s' : State} {c : Cur} (h : s.cur = some c) (hm : microStep c s = .wait s') :
    runToWait (n + 1) s = .next s' := by
  simp [runToWait, h, hm]

/-- Every command's meaning is to be taken and run to its return or its first wait. -/
theorem exec_eq_issue {i : Instr} (h : i.isCommand = true) (s : State) : exec i s = issue i s := by
  cases i <;> first | rfl | cases h

/-- An admitted command runs from its first micro-step (R97). -/
theorem exec_of_admitted {i : Instr} {s : State} (hi : i.isCommand = true) (h : Admitted i s) :
    exec i s = resume { s with cur := some { cmd := i, seq := 1, flt := none, ret := 0x00 }, res := none } := by
  rw [exec_eq_issue hi, issue, accept_of_admitted h]

/-- A command that is not admitted is refused (R136). -/
theorem exec_of_not_admitted {i : Instr} {s : State} (hi : i.isCommand = true) (h : ¬ Admitted i s) :
    ∃ r, exec i s = .refused r := by
  obtain ⟨r, hr⟩ := accept_of_not_admitted hi h
  exact ⟨r, by rw [exec_eq_issue hi, issue, hr]⟩

/-- A step with no input left goes on with the command in flight. -/
theorem step_of_no_inputs {s : State} (h : s.inputs = []) : step s = resume s := by
  simp [step, h]

/-- A command that answers a next state was admitted (R97). -/
theorem admitted_of_next {i : Instr} {s t : State} (hi : i.isCommand = true) (h : exec i s = .next t) : Admitted i s := by
  by_contra hn
  obtain ⟨r, hr⟩ := exec_of_not_admitted hi hn
  rw [hr] at h
  cases h

/-- One step of a run. -/
theorem core_run_next {n : Nat} {s t : State} (h : step s = .next t) :
    Host.Core.run core (n + 1) s = Host.Core.run core n t := by
  have h' : core.step s = .next t := h
  simp [Host.Core.run, h']

/-- What a micro-step leaves, if it leaves a state, has the property. -/
def Micro.Leaves (P : State → Prop) : Micro → Prop
  | .go t => P t
  | .wait t => P t
  | .bad => True

/-- What every micro-step keeps, a run to the next wait keeps. -/
theorem runToWait_keeps {P : State → Prop} (hP : ∀ s c, P s → s.cur = some c → (microStep c s).Leaves P) :
    ∀ (n : Nat) (s t : State), P s → runToWait n s = .next t → P t := by
  intro n
  induction n with
  | zero => intro s t h ht; cases ht; exact h
  | succ n ih =>
    intro s t h ht
    unfold runToWait at ht
    split at ht
    · cases ht; exact h
    · have hm := hP s _ h ‹_›
      split at ht <;> rename_i he <;> rw [he] at hm
      · exact ih _ _ hm ht
      · cases ht; exact hm
      · cases ht

/-- What every micro-step keeps, any number of micro-steps keep (R150). -/
theorem runFor_keeps {P : State → Prop} (hP : ∀ s c, P s → s.cur = some c → (microStep c s).Leaves P) :
    ∀ (n : Nat) (s t : State), P s → runFor n s = .next t → P t := by
  intro n
  induction n with
  | zero => intro s t h ht; cases ht; exact h
  | succ n ih =>
    intro s t h ht
    unfold runFor at ht
    split at ht
    · cases ht; exact h
    · have hm := hP s _ h ‹_›
      split at ht <;> rename_i he <;> rw [he] at hm
      · exact ih _ _ hm ht
      · exact ih _ _ hm ht
      · cases ht

end Sys2Proof.Machine
end

