-- ==== Sys2Proof/Laws/Step.lean ====
section
/-! SUPPORT. Everything a step can be: the inversion of `step`, and what the decoder gives each port. -/

namespace Sys2Proof.Machine

/-- A command word decodes to a command (R51). -/
theorem isCommand_of_decodeCommand {w : CommandWord} {i : Instr} (h : decodeCommand w = .ok i) : i.isCommand = true := by
  unfold decodeCommand at h
  split at h <;> first | (unfold ifMatches at h; split at h <;> cases h; rfl) | cases h

/-- A control word decodes to one of the three (R54). -/
theorem cases_of_decodeControl {w : Byte} {i : Instr} (h : decodeControl w = .ok i) : i = .cwStart ∨ i = .cwClock ∨ i = .cwStop := by
  unfold decodeControl at h
  split at h
  · cases h; simp
  · split at h
    · cases h; simp
    · split at h <;> cases h
      simp

/-- Every step that answers a next state: the command in flight went on; nothing happened; a data phase was skipped; a command word was decoded and
run; a control word was decoded and run; a reset fell while nothing or something was in flight; a reset fell in a command just taken. -/
theorem step_cases {s t : State} (h : step s = .next t) :
    (s.cur.isSome = true ∧ resume s = .next t ∧
      (s.inputs = [] ∨ (∃ w rest, s.inputs = .issue w :: rest ∨ s.inputs = .issueUnlessFault w :: rest) ∨
        ∃ w k rest, s.inputs = .issueThenReset w k :: rest)) ∨
    (s.cur = none ∧ s.inputs = [] ∧ t = s) ∨
    (∃ w rest, s.cur = none ∧ s.inputs = .issueUnlessFault w :: rest ∧ t = s.withInputs rest) ∨
    (∃ i w rest, (s.inputs = .issue w :: rest ∨ s.inputs = .issueUnlessFault w :: rest ∨ s.inputs = .issueNow w :: rest) ∧
      decodeCommand w = .ok i ∧ exec i (s.withInputs rest) = .next t) ∨
    (∃ i w rest, s.cur = none ∧ s.inputs = .control w :: rest ∧ decodeControl w = .ok i ∧ exec i (s.withInputs rest) = .next t) ∨
    (∃ k rest u, s.inputs = .reset k :: rest ∧ runFor k (s.withInputs rest) = .next u ∧ t = u.engineReset) ∨
    (∃ i w k rest u v, s.cur = none ∧ s.inputs = .issueThenReset w k :: rest ∧ decodeCommand w = .ok i ∧
      accept i (s.withInputs rest) = .next v ∧ runFor k v = .next u ∧ t = u.engineReset) := by
  unfold step at h
  split at h
  case h_1 hi =>
    cases hc : s.cur with
    | none => rw [resume, runToWait_none hc] at h; cases h; simp [hi]
    | some c => left; simp [hi, h]
  case h_2 i rest hi =>
    unfold takeInput at h
    split at h
    case h_1 w =>
      split at h
      · left; simp_all
      · right; right; right; left
        simp only [runWord, decode] at h
        split at h
        · exact ⟨_, w, rest, .inl hi, by assumption, h⟩
        · cases h
    case h_2 w =>
      split at h
      · left; simp_all
      · split at h
        · right; right; left; cases h; exact ⟨w, rest, by simp_all, hi, rfl⟩
        · right; right; right; left
          simp only [runWord, decode] at h
          split at h
          · exact ⟨_, w, rest, .inr (.inl hi), by assumption, h⟩
          · cases h
    case h_3 w =>
      right; right; right; left
      simp only [runWord, decode] at h
      split at h
      · exact ⟨_, w, rest, .inr (.inr hi), by assumption, h⟩
      · cases h
    case h_4 w =>
      split at h
      · cases h
      · right; right; right; right; left
        simp only [runWord, decode] at h
        split at h
        · exact ⟨_, w, rest, by simp_all, hi, by assumption, h⟩
        · cases h
    case h_5 k =>
      right; right; right; right; right; left
      unfold resetAfter at h
      split at h <;> cases h
      exact ⟨k, rest, _, hi, by assumption, rfl⟩
    case h_6 w k =>
      split at h
      · left; simp_all
      · right; right; right; right; right; right
        unfold runWordThenReset at h
        split at h
        · unfold issueThenReset at h
          split at h
          · split at h <;> cases h
            exact ⟨_, w, k, rest, _, _, by simp_all, hi, by assumption, by assumption, by assumption, rfl⟩
          · cases h
          · cases h
        · cases h

end Sys2Proof.Machine
end

