-- ==== Sys2Proof/Laws/Frame.lean ====
section
/-! SUPPORT. The frame of a micro-step, and so of a command and of a step. -/

namespace Sys2Proof.Machine

/-- What no micro-step touches, and what it may only add to: the configuration and the inputs stay, `INITD` is never cleared (R14, R18), and the
history grows by accesses the engine can make (R17, R33, R34, R53). -/
structure Frame (s s' : State) : Prop where
  cfg : s'.cfg = s.cfg
  inputs : s'.inputs = s.inputs
  initd : s.initd = true → s'.initd = true
  hist : ∃ e, s'.hist = s.hist ++ e ∧ e.all Event.allowed = true

theorem Frame.refl (s : State) : Frame s s := ⟨rfl, rfl, id, [], by simp, rfl⟩

theorem Frame.trans {a b c : State} (h : Frame a b) (k : Frame b c) : Frame a c := by
  obtain ⟨h1, h2, h3, e, h4, h5⟩ := h
  obtain ⟨k1, k2, k3, e', k4, k5⟩ := k
  exact ⟨by rw [k1, h1], by rw [k2, h2], fun x => k3 (h3 x), e ++ e', by rw [k4, h4, List.append_assoc], by simp_all⟩

theorem frame_raise (k : BusFault) (c : Cur) (s : State) : Frame s (s.raiseBusFault k c) := by
  unfold State.raiseBusFault; split <;> exact ⟨rfl, rfl, id, [], by simp, rfl⟩

theorem frame_await {exp : Byte} {k : BusFault} {c : Cur} {f : State → State} {s : State} (hf : ∀ t, Frame t (f t)) : Micro.Leaves (Frame s) (awaitAndCheck exp k c f s) := by
  have key : ∀ m, awaitAndCheck exp k c f s = m → Micro.Leaves (Frame s) m := by
    intro m hm
    rcases awaitAndCheck_cases hm with ⟨x, b, _, rfl⟩ | ⟨x, v, b, _, _, rfl⟩ | ⟨x, v, b, _, _, rfl⟩
    · exact ⟨rfl, rfl, id, [.rd .cr x], rfl, rfl⟩
    · exact Frame.trans (b := { s with bus := b, hist := s.hist ++ [.rd .cr x, .rd .sr v] }) ⟨rfl, rfl, id, _, rfl, rfl⟩ (hf _)
    · exact Frame.trans (b := { s with bus := b, hist := s.hist ++ [.rd .cr x, .rd .sr v] }) ⟨rfl, rfl, id, _, rfl, rfl⟩ (frame_raise _ _ _)
  exact key _ rfl

theorem frame_start {addr : Addr} {dir : Direction} {seq : Nat} {c : Cur} {f : State → State} {s : State} (hf : ∀ t, Frame t (f t)) : Micro.Leaves (Frame s) (startPhase addr dir seq c f s) := by
  unfold startPhase
  split
  · exact ⟨rfl, rfl, id, [.wr .cr ControlWord.start.byte], rfl, rfl⟩
  · exact frame_await fun t => ⟨rfl, rfl, id, [], by simp, rfl⟩
  · exact ⟨rfl, rfl, id, [.wr .dr _], rfl, rfl⟩
  · exact ⟨rfl, rfl, id, [.wr .cr ControlWord.clock.byte], rfl, rfl⟩
  · exact frame_await fun t => Frame.trans (b := t.withFsm .addressSent) ⟨rfl, rfl, id, [], by simp, rfl⟩ (hf _)
  · trivial

theorem frame_write {d : Byte} {b seq : Nat} {c : Cur} {f : State → State} {s : State} (hf : ∀ t, Frame t (f t)) : Micro.Leaves (Frame s) (writePhase d b seq c f s) := by
  unfold writePhase
  split
  · exact ⟨rfl, rfl, id, [.wr .dr _], rfl, rfl⟩
  · exact ⟨rfl, rfl, id, [.wr .cr ControlWord.clock.byte], rfl, rfl⟩
  · exact frame_await hf
  · trivial

theorem frame_read {b seq : Nat} {c : Cur} {f : State → State} {s : State} (hf : ∀ t, Frame t (f t)) : Micro.Leaves (Frame s) (readPhase b seq c f s) := by
  unfold readPhase
  split
  · exact ⟨rfl, rfl, id, [.wr .dr _], rfl, rfl⟩
  · exact ⟨rfl, rfl, id, [.wr .cr ControlWord.clock.byte], rfl, rfl⟩
  · exact frame_await fun t => ⟨rfl, rfl, id, [], by simp, rfl⟩
  · exact Frame.trans (b := s.readData) ⟨rfl, rfl, id, [.rd .dr _], rfl, rfl⟩ (hf _)
  · trivial

theorem frame_micro (c : Cur) (s : State) : Micro.Leaves (Frame s) (microStep c s) := by
  have hfin : ∀ k d (t : State), Frame t (t.finish k d) := fun _ _ t => ⟨rfl, rfl, id, [], by simp, rfl⟩
  have hgo : ∀ n (t : State), Frame t (t.goTo c n) := fun _ t => ⟨rfl, rfl, id, [], by simp, rfl⟩
  unfold microStep
  split
  · unfold initMicro; split
    · exact ⟨rfl, rfl, id, [.wr .brr _], rfl, rfl⟩
    · exact ⟨rfl, rfl, fun _ => rfl, [.wr .psr _], rfl, rfl⟩
    · trivial
  · exact frame_start fun t => hfin _ _ t
  · exact frame_write fun t => hfin _ _ t
  · exact frame_read fun t => hfin _ _ t
  · unfold stopMicro; split
    · exact ⟨rfl, rfl, id, [.wr .cr ControlWord.stop.byte], rfl, rfl⟩
    · trivial
  · unfold writeTransactionMicro; split
    · exact frame_write (hgo _)
    · exact frame_write (hgo _)
    · exact frame_write (hgo _)
    · exact ⟨rfl, rfl, id, [.wr .cr ControlWord.stop.byte], rfl, rfl⟩
    · exact frame_start (hgo _)
  · unfold readTransactionMicro; split
    · exact frame_read Frame.refl
    · exact frame_read Frame.refl
    · exact frame_read Frame.refl
    · exact frame_read fun t => ⟨rfl, rfl, id, [], by simp, rfl⟩
    · exact ⟨rfl, rfl, id, [.wr .cr ControlWord.stop.byte], rfl, rfl⟩
    · exact frame_start (hgo _)
  all_goals trivial

/-- The frame of a run to the next wait. -/
theorem frame_runToWait {n : Nat} {s t : State} (h : runToWait n s = .next t) : Frame s t :=
  runToWait_keeps (P := Frame s) (fun u c hu _ => by
    have := frame_micro c u
    revert this
    cases microStep c u <;> intro hm
    · exact hu.trans hm
    · exact hu.trans hm
    · trivial) n s t (Frame.refl s) h

/-- The frame of a number of micro-steps. -/
theorem frame_runFor {n : Nat} {s t : State} (h : runFor n s = .next t) : Frame s t :=
  runFor_keeps (P := Frame s) (fun u c hu _ => by
    have := frame_micro c u
    revert this
    cases microStep c u <;> intro hm
    · exact hu.trans hm
    · exact hu.trans hm
    · trivial) n s t (Frame.refl s) h

/-- The frame of an instruction. -/
theorem frame_exec {i : Instr} {s t : State} (h : exec i s = .next t) : Frame s t := by
  cases hi : i.isCommand with
  | true =>
    rw [exec_of_admitted hi (admitted_of_next hi h)] at h
    exact Frame.trans (b := { s with cur := some { cmd := i, seq := 1, flt := none, ret := 0x00 }, res := none })
      ⟨rfl, rfl, id, [], by simp, rfl⟩ (frame_runToWait h)
  | false =>
    cases i <;> first | (cases hi; done) | (cases h; exact ⟨rfl, rfl, id, [_], rfl, rfl⟩)

end Sys2Proof.Machine
end

