-- ==== Sys2Proof/Laws/PerInstr.lean ====
section
/-! SUPPORT. The statement made instruction by instruction: an encoded command is a word of its own row of the opcode map (spec/30_encoding.md R51), an encoded control word is one of the three of R54. -/

namespace Sys2Proof.Laws

/-- The row of R51 a command belongs to; a control word has none. -/
def rowOf : Instr → Option Row
  | .init => some initRow
  | .start _ _ => some startRow
  | .writeByte _ => some writeByteRow
  | .readByte => some readByteRow
  | .stop => some stopRow
  | .writeTransaction _ _ => some writeTransactionRow
  | .readTransaction _ => some readTransactionRow
  | .cwStart => none
  | .cwClock => none
  | .cwStop => none

/-- The seven rows of R51. -/
def opcodeRows : List Row :=
  [initRow, startRow, writeByteRow, readByteRow, stopRow, writeTransactionRow, readTransactionRow]

/-- "no word matches two rows" (R63): any two rows differ in a bit both of them fix. -/
theorem opcodeRows_disjoint :
    opcodeRows.Pairwise fun r r' => (r.mask &&& r'.mask) &&& (r.mtch ^^^ r'.mtch) ≠ 0 := by decide

/-- The words of a family's row are the words of its command: encoding puts every fixed bit where the row has it. -/
def EncodesItsRow.Statement (i : Instr) : Prop :=
  match rowOf i with
  | some r => ∃ w, encode i = .command w ∧ r.matches w = true
  | none => ∃ v, encode i = .control v ∧ (v = 0xA4 ∨ v = 0xC4 ∨ v = 0x94)

/-- Bit `k` of an encoded command: the row's bit, or the bit of the field that lies there (R59, R63). -/
theorem getLsbD_encodeFields (m : CommandWord) (a : Addr) (d : Direction) (b : Byte) {k : Nat} (hk : k < 20) :
    (encodeFields m a d b).getLsbD k =
      (m.getLsbD k || (decide (9 ≤ k) && a.getLsbD (k - 9)) || (decide (8 ≤ k) && d.bit.getLsbD (k - 8)) || b.getLsbD k) := by
  interval_cases k <;> simp [encodeFields]

namespace EncodesItsRow

theorem init : Statement .init := ⟨_, rfl, by decide⟩

theorem start (addr : Addr) (dir : Direction) : Statement (.start addr dir) := by
  refine ⟨_, rfl, ?_⟩
  rw [Row.matches, beq_iff_eq]
  apply BitVec.eq_of_getLsbD_eq
  intro k hk
  rw [BitVec.getLsbD_and, getLsbD_encodeFields _ _ _ _ hk]
  interval_cases k <;> simp [startRow]

theorem writeByte (data : Byte) : Statement (.writeByte data) := by
  refine ⟨_, rfl, ?_⟩
  rw [Row.matches, beq_iff_eq]
  apply BitVec.eq_of_getLsbD_eq
  intro k hk
  rw [BitVec.getLsbD_and, getLsbD_encodeFields _ _ _ _ hk]
  interval_cases k <;> simp [writeByteRow, Direction.bit]

theorem readByte : Statement .readByte := ⟨_, rfl, by decide⟩

theorem stop : Statement .stop := ⟨_, rfl, by decide⟩

theorem writeTransaction (addr : Addr) (data : Byte) : Statement (.writeTransaction addr data) := by
  refine ⟨_, rfl, ?_⟩
  rw [Row.matches, beq_iff_eq]
  apply BitVec.eq_of_getLsbD_eq
  intro k hk
  rw [BitVec.getLsbD_and, getLsbD_encodeFields _ _ _ _ hk]
  interval_cases k <;> simp [writeTransactionRow, Direction.bit]

theorem readTransaction (addr : Addr) : Statement (.readTransaction addr) := by
  refine ⟨_, rfl, ?_⟩
  rw [Row.matches, beq_iff_eq]
  apply BitVec.eq_of_getLsbD_eq
  intro k hk
  rw [BitVec.getLsbD_and, getLsbD_encodeFields _ _ _ _ hk]
  interval_cases k <;> simp [readTransactionRow, Direction.bit]

theorem cwStart : Statement .cwStart := ⟨_, rfl, .inl rfl⟩

theorem cwClock : Statement .cwClock := ⟨_, rfl, .inr (.inl rfl)⟩

theorem cwStop : Statement .cwStop := ⟨_, rfl, .inr (.inr rfl)⟩

end EncodesItsRow

end Sys2Proof.Laws
end

