-- ==== Sys2Proof/Laws/RefBus.lean ====
section
/-! SUPPORT. What RefBus answers (spec/44_bus_environment.md R117 to R122), and the codes it uses. -/

namespace Sys2Proof.Machine

/-- The status byte RefBus shows, masked, is the code (R22, R122). -/
theorem statusCode_refBus (c : Byte) (l : BitVec 3) (h : c &&& 0x07 = 0) : statusCode ((c &&& 0xF8) ||| l.setWidth 8) = c := by
  simp only [statusCode, statusMask]
  revert c l
  decide

theorem allCodes_lowBits (c : Byte) : c ∈ allCodes → c &&& 0x07 = 0 := by
  revert c
  decide

/-- A code put in place of another is expected by no check and is not `ST_ARB_LOST`. -/
theorem mem_replacementCodes {t : StatusTable} {c : Byte} (h : c ∈ replacementCodes t) :
    c ∉ t.expected ∧ c ≠ t.arbLost ∧ c &&& 0x07 = 0 := by
  simp only [replacementCodes, List.mem_filter] at h
  have h1 := h.2
  simp [StatusTable.entries] at h1
  exact ⟨h1.1, h1.2.1, allCodes_lowBits _ h.1⟩

/-- There is always a code to put in place of another: a table has seven entries, and there are 32 codes. -/
theorem replacementCodes_pos (t : StatusTable) : 0 < (replacementCodes t).length := by
  rw [List.length_pos_iff]
  intro hf
  have hsub : allCodes ⊆ t.entries := by
    intro x hx
    simpa [replacementCodes] using (List.filter_eq_nil_iff.mp hf) x hx
  have hle := (List.subperm_of_subset (by decide : allCodes.Nodup) hsub).length_le
  have h32 : allCodes.length = 32 := by decide
  simp [StatusTable.entries, StatusTable.expected, h32] at hle

/-- A code RefBus reports for an outcome the engine does not expect is expected by no check (R120); it is not `ST_ARB_LOST` either, unless the table
made the original code that. -/
theorem unexpectedCode_spec (t : StatusTable) (c : Byte) (h8 : c &&& 0x07 = 0) (ha : c ≠ t.arbLost) :
    unexpectedCode t c ∉ t.expected ∧ unexpectedCode t c ≠ t.arbLost ∧ unexpectedCode t c &&& 0x07 = 0 := by
  unfold unexpectedCode
  split
  · have hpos : 0 < (replacementCodes t).length := replacementCodes_pos t
    have hlt := Nat.mod_lt (Config.freeIndex c.toNat) hpos
    rw [List.getElem?_eq_getElem hlt, Option.getD_some]
    exact mem_replacementCodes (List.getElem_mem hlt)
  · rename_i h
    exact ⟨by simpa using h, ha, h8⟩

/-- Every code of a table that passes the check has its low bits zero (R5). -/
theorem StatusTable.lowBits {t : StatusTable} (h : t.wellFormed = true) : ∀ c ∈ t.entries, c &&& 0x07 = 0 := by
  simp [StatusTable.wellFormed, StatusTable.lowBitsZero] at h
  simpa using h.1

/-- No expected code of a table that passes the check is `ST_ARB_LOST` (R5). -/
theorem StatusTable.expected_ne_arbLost {t : StatusTable} (h : t.wellFormed = true) : ∀ c ∈ t.expected, c ≠ t.arbLost := by
  simp [StatusTable.wellFormed, StatusTable.arbLostDistinct] at h
  simpa using h.2

/-- The address and the direction of an address-phase byte (R55, R56). -/
theorem addressByte_addr (a : Addr) (d : Direction) : (addressByte a d).extractLsb' 1 7 = a := by
  cases d <;> revert a <;> decide
theorem addressByte_write (a : Addr) : (addressByte a .write)[0] = false := by revert a; decide
theorem addressByte_read (a : Addr) : (addressByte a .read)[0] = true := by revert a; decide

@[simp] theorem refBusStore_cr (v : Byte) (ctl : ControllerRegs) : refBusStore .cr v ctl = { ctl with cr := v } := rfl
@[simp] theorem refBusStore_sr (v : Byte) (ctl : ControllerRegs) : refBusStore .sr v ctl = ctl := rfl
@[simp] theorem refBusStore_dr (v : Byte) (ctl : ControllerRegs) : refBusStore .dr v ctl = { ctl with dr := v } := rfl
@[simp] theorem refBusStore_brr (v : Byte) (ctl : ControllerRegs) : refBusStore .brr v ctl = { ctl with brr := v } := rfl
@[simp] theorem refBusStore_psr (v : Byte) (ctl : ControllerRegs) : refBusStore .psr v ctl = { ctl with psr := v } := rfl

/-- No write but one of `CR` leaves another `CR`, and none changes `sr` (R117, R125). -/
theorem refBusStore_keeps (r : Reg) (v : Byte) (ctl : ControllerRegs) :
    (refBusStore r v ctl).sr = ctl.sr ∧ (r ≠ .cr → (refBusStore r v ctl).cr = ctl.cr) := by
  cases r <;> simp

/-- RefBus with a pending outcome whose countdown has run out ends the poll at once (R122). -/
theorem Bus.answers_refBus {b : Bus} {cfg : RefBusConfig} {h : RefBusState} {s d : Byte} (hb : b.env = .refBus cfg h)
    (hp : h.pend = some ⟨s, d, 0⟩) :
    b.Answers (0x80 ||| (b.ctl.cr &&& 0x6F)) ((s &&& 0xF8) ||| cfg.srLow.setWidth 8)
      { b with ctl := { b.ctl with sr := s, dr := d }, env := .refBus cfg { h with flag := true, pend := none } } := by
  obtain ⟨ctl, env, n⟩ := b
  simp only at hb
  subst hb
  refine ⟨?_, ?_, ?_⟩
  · simp [Bus.read, RefBusState.onRead, RefBusState.poll, hp, RefBusState.crByte]
  · simp [completionFlag]
  · simp [Bus.read, RefBusState.onRead, RefBusState.poll, hp]

/-- RefBus with a pending outcome that is not yet due sees the flag clear and counts down (R122). -/
theorem Bus.busy_refBus {b : Bus} {cfg : RefBusConfig} {h : RefBusState} {s d : Byte} {n : Nat} (hb : b.env = .refBus cfg h)
    (hf : h.flag = false) (hp : h.pend = some ⟨s, d, n + 1⟩) :
    b.Busy (b.ctl.cr &&& 0x6F) { b with env := .refBus cfg { h with pend := some ⟨s, d, n⟩ } } := by
  obtain ⟨ctl, env, k⟩ := b
  simp only at hb
  subst hb
  simp [Bus.Busy, Bus.read, RefBusState.onRead, RefBusState.poll, hp, RefBusState.crByte, hf, completionFlag]

/-- A control word that leaves RefBus an outcome due at once is answered at the first poll (R118, R122). -/
theorem Bus.answers_control {b : Bus} {cfg : RefBusConfig} {h h' : RefBusState} {w s d : Byte} (hb : b.env = .refBus cfg h)
    (hact : h.control cfg w b.ctl.dr = h') (hp : h'.pend = some ⟨s, d, 0⟩) :
    (b.write .cr w).Answers (0x80 ||| (w &&& 0x6F)) ((s &&& 0xF8) ||| cfg.srLow.setWidth 8)
      { b with ctl := { b.ctl with cr := w, sr := s, dr := d }, env := .refBus cfg { h' with flag := true, pend := none } } := by
  have he : (b.write .cr w).env = .refBus cfg h' := by
    simp only [Bus.write, hb, RefBusState.onWrite, hact]
  simpa [Bus.write, hb] using Bus.answers_refBus he hp

/-- A write of any register but `CR` changes at most that register (R117). -/
theorem Bus.write_refBus {b : Bus} {cfg : RefBusConfig} {h : RefBusState} {v : Byte} (hb : b.env = .refBus cfg h) (r : Reg)
    (hr : r ≠ .cr) : b.write r v = { b with ctl := refBusStore r v b.ctl } := by
  obtain ⟨ctl, env, n⟩ := b
  simp only at hb
  subst hb
  cases r <;> first | rfl | exact (hr rfl).elim

/-- RefBus on the STOP word (R119). -/
theorem Bus.write_stop_refBus {b : Bus} {cfg : RefBusConfig} {h : RefBusState} (hb : b.env = .refBus cfg h) :
    (b.write .cr 0x94).env = .refBus cfg ({ h with flag := false, pend := none } : RefBusState).stopAction := by
  obtain ⟨ctl, env, n⟩ := b
  simp only at hb
  subst hb
  simp [Bus.write, RefBusState.onWrite, RefBusState.control]

end Sys2Proof.Machine
end

