-- ==== Sys2Proof/Laws/Verdict.lean ====
section
/-! SUPPORT. The verdict on a run is at most one (spec/70_reset_and_hazards.md R166). -/

namespace Sys2Proof.Machine

/-- A command that hangs is in flight. -/
theorem Hangs.cur_ne_none {s : State} (h : Hangs s) : s.cur ≠ none := by
  obtain ⟨t, ht, hc⟩ := h 0
  cases ht
  exact hc

/-- With nothing in flight and nothing to come a step changes nothing. -/
theorem step_idle {s : State} (hc : s.cur = none) (hi : s.inputs = []) : step s = .next s := by
  rw [step_of_no_inputs hi, resume, runToWait_none hc]

/-- No state has two verdicts (R166). -/
theorem judged_unique {s : State} {v v' : Verdict} (h : Judged s v) (h' : Judged s v') : v = v' := by
  have quiet : s.cur = none → s.inputs = [] → ¬ ∃ r, step s = .refused r := by
    rintro hc hi ⟨r, hr⟩
    rw [step_idle hc hi] at hr
    cases hr
  cases v <;> cases v'
  case endedWell.endedWell | endedBadly.endedBadly | notEnded.notEnded => rfl
  case endedWell.notEnded => exact (h'.1.cur_ne_none h.1).elim
  case notEnded.endedWell => exact (h.1.cur_ne_none h'.1).elim
  case endedWell.endedBadly =>
    rcases h' with ⟨-, hr⟩ | ⟨-, -, h1, h2⟩
    · exact (quiet h.1 h.2.1 hr).elim
    · exact (h.2.2.elim h1 h2).elim
  case endedBadly.endedWell =>
    rcases h with ⟨-, hr⟩ | ⟨-, -, h1, h2⟩
    · exact (quiet h'.1 h'.2.1 hr).elim
    · exact (h'.2.2.elim h1 h2).elim
  case endedBadly.notEnded =>
    rcases h with ⟨hn, -⟩ | ⟨hc, -⟩
    · exact (hn h'.1).elim
    · exact (h'.1.cur_ne_none hc).elim
  case notEnded.endedBadly =>
    rcases h' with ⟨hn, -⟩ | ⟨hc, -⟩
    · exact (hn h.1).elim
    · exact (h.1.cur_ne_none hc).elim

/-- A run that has ended well stays where it is, so it has no other verdict later. -/
theorem step_of_endedWell {s : State} (h : Judged s .endedWell) : step s = .next s := step_idle h.1 h.2.1

end Sys2Proof.Machine
end

