-- ==== Sys2Proof/Tests/Slice0.lean ====
section
/-! SUPPORT. Tests: ill-formed terms, decoding, one step at a time against the vectors of spec/95_test_vectors.md, and for every statement with hypotheses a state that meets them. -/

namespace Sys2Proof.Tests

open Sys2Proof Sys2Proof.Machine

/-! ### WellFormed refuses ill-formed terms (spec/00_scope.md R5, spec/30_encoding.md R65) -/

theorem test_address_128_refused : (AsmLine.start 128 .write).wellFormed = false := by decide
theorem test_probe_address_refused : (AsmLine.probe 200 .read).wellFormed = false := by decide
theorem test_byte_256_refused : (AsmLine.writeByte 256).wellFormed = false := by decide
theorem test_register_byte_refused : (AsmLine.writeReg 0x20 256 0).wellFormed = false := by decide
theorem test_transaction_address_refused : (AsmLine.writeTransaction 128 0).wellFormed = false := by decide
theorem test_transaction_byte_refused : (AsmLine.writeTransaction 127 256).wellFormed = false := by decide
theorem test_read_address_refused : (AsmLine.readTransaction 128).wellFormed = false := by decide
theorem test_limits_accepted : (AsmLine.writeReg 127 255 255).wellFormed = true := by decide

/-- A code with a low bit set can never be read (R5). -/
theorem test_table_low_bit_refused : StatusTable.wellFormed { defaultStatus with dataTxNack := 0x31 } = false := by decide
/-- `ST_ARB_LOST` equal to an expected code (R5). -/
theorem test_table_arb_lost_refused : StatusTable.wellFormed { defaultStatus with arbLost := 0x50 } = false := by decide
theorem test_config_refused : Config.wellFormed ⟨{ defaultStatus with start := 0x38 }, 0x48, 0⟩ = false := by decide
/-- "`ST_ADDR_ACK_W` may equal `ST_ADDR_ACK_R`" (R5). -/
theorem test_table_equal_acks_accepted : StatusTable.wellFormed { defaultStatus with addrAckR := 0x18 } = true := by decide

/-! ### Decoding: words written out from the patterns of R51 and R54 (vectors V1 to V19) -/

theorem test_decode_init : decode (.command 0b0001_0000000_0_00000000) = .ok .init := by decide
theorem test_decode_start_write : decode (.command 0b0010_0100000_0_00000000) = .ok (.start 0x20 .write) := by decide
theorem test_decode_start_read : decode (.command 0b0010_1111111_1_00000000) = .ok (.start 0x7F .read) := by decide
theorem test_decode_write_byte : decode (.command 0b0011_0000000_0_01010101) = .ok (.writeByte 0x55) := by decide
theorem test_decode_read_byte : decode (.command 0b0100_0000000_0_00000000) = .ok .readByte := by decide
theorem test_decode_stop : decode (.command 0b0101_0000000_0_00000000) = .ok .stop := by decide
theorem test_decode_write_transaction :
    decode (.command 0b0110_0100000_0_01010101) = .ok (.writeTransaction 0x20 0x55) := by decide
theorem test_decode_read_transaction : decode (.command 0b0111_0100000_1_00000000) = .ok (.readTransaction 0x20) := by decide
theorem test_decode_cw_start : decode (.control 0b10100100) = .ok .cwStart := by decide
theorem test_decode_cw_clock : decode (.control 0b11000100) = .ok .cwClock := by decide
theorem test_decode_cw_stop : decode (.control 0b10010100) = .ok .cwStop := by decide

/-- V18. -/
theorem test_decode_no_opcode :
    ([0x00000, 0x0FFFF, 0x80000, 0xF0000, 0xFFFFF] : List CommandWord).all
      (fun w => decodeCommand w == .error .noSuchOpcode) = true := by decide
/-- V19. -/
theorem test_decode_fixed_bits :
    ([0x10001, 0x10100, 0x24001, 0x30155, 0x34055, 0x40001, 0x44000, 0x50100, 0x64155, 0x74000, 0x74142] : List CommandWord).all
      (fun w => decodeCommand w == .error .fixedBitsDiffer) = true := by decide
theorem test_decode_no_control_word : decode (.control 0xA5) = .error .noSuchControlWord := by decide
/-- A command word has 20 bits: a table word with a bit above them is none. -/
theorem test_table_word_too_wide : decodeTableWord 24 0x110000 = none := by decide

/-- V2, V6, V14, V17: encoding (R63, R64). -/
theorem test_encode :
    [encode (.start 0x00 .write), encode (.start 0x7F .read), encode (.writeTransaction 0x7F 0xFF), encode (.readTransaction 0x7F)] =
      [.command 0x20000, .command 0x2FF00, .command 0x6FEFF, .command 0x7FF00] := by decide

/-- V20 to V27 (R56). -/
theorem test_address_byte :
    [addressByte 0x00 .write, addressByte 0x00 .read, addressByte 0x20 .write, addressByte 0x20 .read, addressByte 0x7F .write,
      addressByte 0x7F .read, addressByte 0x55 .write, addressByte 0x40 .read] =
      [0x00, 0x01, 0x40, 0x41, 0xFE, 0xFF, 0xAA, 0x81] := by decide

/-- V31, V33, V34, V35: masking and CHECK (R75, R78). -/
theorem test_check :
    [checkStatus defaultStatus (statusCode 0x0F) 0x08 .startFailed, checkStatus defaultStatus (statusCode 0x18) 0x40 .addressNack,
      checkStatus defaultStatus (statusCode 0x3F) 0x28 .dataNack, checkStatus defaultStatus (statusCode 0xF8) 0x08 .startFailed] =
      [none, some .addressNack, some .arbitrationLost, some .startFailed] := by decide

/-- V33 to V37: result words of faults (R52, R130). -/
theorem test_fault_results :
    [resultWord (some .addressNack) 0x42, resultWord (some .arbitrationLost) 0, resultWord (some .startFailed) 0,
      resultWord (some .dataNack) 0, resultWord (some .readError) 0xFF, resultWord none 0x42] =
      [0x200, 0x500, 0x100, 0x300, 0x400, 0x042] := by decide

/-! ### One step on a small state -/

/-- An initialised engine between commands, with the parameters of the vectors. -/
def engine (f : Fsm) (b : Bus) : State where
  fsm := f
  txb := 0xEE
  rxb := 0xDD
  initd := true
  cur := none
  hist := []
  res := none
  bus := b
  inputs := []
  cfg := ⟨defaultStatus, 0x48, 0⟩

/-- RefBus with the bus in a phase of a transaction (R116). -/
def busIn (p : Phase) (cfg : RefBusConfig) : Bus := ⟨refBusRegs, .refBus cfg { RefBusState.initial cfg with phase := p }, 0⟩

/-- The oracle with these answers. -/
def answering (l : List Byte) : Bus := ⟨refBusRegs, .oracle l, 0⟩

def stateOf : Host.Outcome State Fault Refusal → Option State
  | .next s => some s
  | .fault _ => none
  | .refused _ => none

def refusalOf : Host.Outcome State Fault Refusal → Option Refusal
  | .next _ => none
  | .fault _ => none
  | .refused r => some r

/-- RefBus's state, where the environment is RefBus. -/
def refOf (s : State) : Option RefBusState :=
  match s.bus.env with
  | .refBus _ h => some h
  | .oracle _ => none

/-- `FSM` and the result word after an instruction. -/
def ends (o : Host.Outcome State Fault Refusal) : Option (Fsm × Option ResultWord) := (stateOf o).map fun s => (s.fsm, s.res)

/-- V49. -/
theorem test_init :
    (stateOf (exec .init (engine .addressSent (answering [])))).map (fun s => (s.fsm, s.initd, s.txb, s.res, s.hist)) =
      some (.addressSent, true, 0xEE, some 0x000, [.wr .brr 0x48, .wr .psr 0x01]) := by decide

/-- V50: history, `TXB`. -/
theorem test_start_history :
    (stateOf (exec (.start 0x20 .write) (engine .idle (refBusInitial ackAll)))).map (fun s => (s.fsm, s.txb, s.res, s.hist)) =
      some (.addressSent, 0x40, some 0x000, [.wr .cr 0xA4, .rd .cr 0xA4, .rd .sr 0x08, .wr .dr 0x40, .wr .cr 0xC4, .rd .cr 0xC4,
        .rd .sr 0x18]) := by decide

/-- V53 to V56: the faults of START. -/
theorem test_start_faults :
    ([(.write, nackAddr), (.read, absent), (.write, arbStart), (.write, arbAddr)] : List (Direction × RefBusConfig)).map
      (fun p => (stateOf (exec (.start 0x20 p.1) (engine .idle (refBusInitial p.2)))).map
        fun s => (s.fsm, s.txb, s.res)) =
      [some (.faulted, 0x40, some 0x200), some (.faulted, 0x41, some 0x200), some (.faulted, 0xEE, some 0x500),
        some (.faulted, 0x40, some 0x500)] := by decide

/-- V60: WRITE_BYTE acknowledged. -/
theorem test_write_byte :
    (stateOf (exec (.writeByte 0x55) (engine .addressSent (busIn .addrW ackAll)))).map
      (fun s => (s.fsm, s.txb, s.res, s.hist, (refOf s).map (·.devReg))) =
      some (.dataPhase, 0x55, some 0x000, [.wr .dr 0x55, .wr .cr 0xC4, .rd .cr 0xC4, .rd .sr 0x28], some 0x55) := by decide

/-- V61, V67, V68: its faults. -/
theorem test_write_byte_faults :
    [ends (exec (.writeByte 0x55) (engine .addressSent (busIn .addrW nackData))),
      ends (exec (.writeByte 0x55) (engine .addressSent (busIn .addrW arbData))),
      ends (exec (.writeByte 0x99) (engine .addressSent (busIn .addrR ackAll)))] =
      [some (.faulted, some 0x300), some (.faulted, some 0x500), some (.faulted, some 0x300)] := by decide

/-- V63: READ_BYTE. -/
theorem test_read_byte :
    (stateOf (exec .readByte (engine .addressSent (busIn .addrR ackAll42)))).map (fun s => (s.fsm, s.txb, s.rxb, s.res, s.hist)) =
      some (.dataPhase, 0x00, 0x42, some 0x042, [.wr .dr 0x00, .wr .cr 0xC4, .rd .cr 0xC4, .rd .sr 0x50, .rd .dr 0x42]) := by decide

/-- V64: on a failed check `DR` is not read and `RXB` is unchanged. -/
theorem test_read_byte_fault :
    (stateOf (exec .readByte (engine .addressSent (busIn .addrR failRead)))).map (fun s => (s.fsm, s.rxb, s.res, s.hist)) =
      some (.faulted, 0xDD, some 0x400, [.wr .dr 0x00, .wr .cr 0xC4, .rd .cr 0xC4, .rd .sr 0x58]) := by decide

/-- V58, V59, V66: STOP. -/
theorem test_stop :
    [ends (exec .stop (engine .addressSent (busIn .addrW ackAll))), ends (exec .stop (engine .faulted (busIn .nacked nackAddr))),
      ends (exec .stop (engine .dataPhase (busIn .addrW ackAll)))] =
      [some (.idle, some 0x000), some (.idle, some 0x000), some (.complete, some 0x000)] := by decide

theorem test_stop_wire :
    (stateOf (exec .stop (engine .faulted (busIn .nacked nackAddr)))).map
      (fun s => (s.hist, (refOf s).map fun h => (h.phase, h.wire))) =
      some ([.wr .cr 0x94], some (.free, [.stopCond])) := by decide

/-- V70: WRITE_TRANSACTION, its history. -/
theorem test_write_transaction :
    (stateOf (exec (.writeTransaction 0x20 0x55) (engine .idle (refBusInitial ackAll)))).map
      (fun s => (s.fsm, s.txb, s.res, s.hist)) =
      some (.complete, 0x55, some 0x000, [.wr .cr 0xA4, .rd .cr 0xA4, .rd .sr 0x08, .wr .dr 0x40, .wr .cr 0xC4, .rd .cr 0xC4,
        .rd .sr 0x18, .wr .dr 0x55, .wr .cr 0xC4, .rd .cr 0xC4, .rd .sr 0x28, .wr .cr 0x94]) := by decide

/-- V70 and V72: the wire. -/
theorem test_write_transaction_wire :
    [(stateOf (exec (.writeTransaction 0x20 0x55) (engine .idle (refBusInitial ackAll)))).bind fun s => (refOf s).map (·.wire),
      (stateOf (exec (.writeTransaction 0x20 0x55) (engine .idle (refBusInitial nackAddr)))).bind fun s => (refOf s).map (·.wire)] =
      [some [.startCond, .sent 0x40 true, .sent 0x55 true, .stopCond], some [.startCond, .sent 0x40 false, .stopCond]] := by decide

/-- V71: READ_TRANSACTION. -/
theorem test_read_transaction :
    (stateOf (exec (.readTransaction 0x20) (engine .idle (refBusInitial ackAll42)))).map
      (fun s => (s.rxb, s.res, (refOf s).map (·.wire))) =
      some (0x42, some 0x042, some [.startCond, .sent 0x41 true, .received 0x42 true, .stopCond]) := by decide

/-- A failed read in a composite: STOP is the last event, the result carries no data, `FSM` ends Idle (R92; V75). -/
theorem test_read_transaction_fault :
    (stateOf (exec (.readTransaction 0x20) (engine .complete (refBusInitial failRead)))).map
      (fun s => (s.fsm, s.rxb, s.res, s.hist.getLast?, countAsserts .stop s.hist)) =
      some (.idle, 0xDD, some 0x400, some (.wr .cr 0x94), 1) := by decide

/-- V41, V42: the control words. -/
theorem test_control_words :
    [(stateOf (exec .cwStart (engine .idle (answering [])))).map (·.hist), (stateOf (exec .cwClock (engine .idle (answering [])))).map (·.hist),
      (stateOf (exec .cwStop (engine .idle (answering [])))).map (·.hist)] =
      [some [.wr .cr 0xA4], some [.wr .cr 0xC4], some [.wr .cr 0x94]] := by decide

/-- P8: against Dead the command is left in flight at micro-step 2, `FSM` Idle, no result. -/
theorem test_hang :
    (stateOf (exec (.writeTransaction 0x20 0x55) (engine .idle (refBusInitial dead)))).map (fun s => (s.cur, s.fsm, s.res, s.hist)) =
      some (some ⟨.writeTransaction 0x20 0x55, 2, none, 0x00⟩, .idle, none, [.wr .cr 0xA4, .rd .cr 0x24]) := by decide

/-- V44: RefBus with `poll_delay` 3 and `sr_low` 7, the poll's turns. -/
theorem test_slow_poll :
    let b := (refBusInitial { slow3 with srLow := 7 }).write .cr 0xA4
    [(b.read .cr).1, ((b.afterPolls 2).read .cr).1, ((b.afterPolls 3).read .cr).1, ((b.afterPolls 4).read .sr).1] =
      [0x24, 0x24, 0xA4, 0x0F] := by decide

/-- V82, V83, V84, V86, V88, V91: refusals. -/
theorem test_refusals :
    [refusalOf (exec (.writeTransaction 0x20 0x55) State.reset), refusalOf (exec (.writeByte 0x01) (engine .idle (answering []))),
      refusalOf (exec (.start 0x20 .write) (engine .addressSent (answering []))), refusalOf (exec .readByte (engine .faulted (answering []))),
      refusalOf (exec .stop (engine .complete (answering []))),
      refusalOf (step { engine .idle (answering []) with inputs := [.issueNow 0x74142] })] =
      [some .notInitialised, some .notAdmitted, some .notAdmitted, some .notAdmitted, some .notAdmitted,
        some (.illegalEncoding .fixedBitsDiffer)] := by decide

/-- V90: a word presented while a command is in flight. -/
theorem test_refused_in_flight :
    refusalOf (step { engine .idle (answering []) with
      cur := some ⟨.start 0x20 .write, 2, none, 0⟩, inputs := [.issueNow 0x50000] }) = some .commandInFlight := by decide

/-- V92: a reset in an open transaction makes no access and leaves the bus held. -/
theorem test_reset_mid_transaction :
    (stateOf (step { engine .dataPhase (busIn .addrW ackAll) with inputs := [.reset 0], hist := [.wr .cr 0xC4] })).map
      (fun s => (s.initd, s.cur, s.hist, (refOf s).map (·.phase))) = some (false, none, [], some .addrW) := by decide

/-- V92, later: START on a bus still held is answered with 0x10, so `StartFailed`. -/
theorem test_start_on_held_bus :
    (stateOf (exec (.start 0x20 .write) (engine .idle (busIn .addrW ackAll)))).map (fun s => (s.fsm, s.res, s.hist)) =
      some (.faulted, some 0x100, [.wr .cr 0xA4, .rd .cr 0xA4, .rd .sr 0x10]) := by decide

/-- A reset two micro-steps into WRITE_BYTE. -/
theorem test_reset_in_command :
    (stateOf (step { engine .addressSent (busIn .addrW ackAll) with inputs := [.issueThenReset 0x30055 2] })).map
      (fun s => (s.fsm, s.initd, s.cur, s.hist, s.bus.ctl.dr)) = some (.idle, false, none, [], 0x55) := by decide

/-- A placed table word is what the step runs. -/
theorem test_placed_word :
    (stateOf (step (State.reset.withFetchWord 24 0x10000))).map (fun s => (s.initd, s.res)) = some (true, some 0x000) ∧
    (stateOf (step ((engine .idle (answering [])).withFetchWord 8 0xA4))).map (·.hist) = some [.wr .cr 0xA4] := by decide

/-! ### Surface syntax (R64 to R66) -/

theorem test_parse :
    [parseLine "WRITE_TRANSACTION 0x20, 0x55   ; comment", parseLine "START 127,R", parseLine "; nothing", parseLine "PROBE 0x20, W",
      parseLine "WRITE_REG 0x20, 0x03, 0xA5", parseLine "START 32", parseLine "init"] =
      [some (some (.writeTransaction 0x20 0x55)), some (some (.start 127 .read)), some none, some (some (.probe 0x20 .write)),
        some (some (.writeReg 0x20 0x03 0xA5)), none, none] := by decide +kernel

/-- P4: the expansion of WRITE_REG, as the caller issues it. -/
theorem test_write_reg :
    lineInputs (.writeReg 0x20 0x03 0xA5) =
      some [.issue 0x24000, .issueUnlessFault 0x30003, .issueUnlessFault 0x300A5, .issue 0x50000] := by decide

theorem test_result_text :
    [resultText .readByte 0x042, resultText .stop 0x000, resultText (.start 0x20 .write) 0x200] =
      ["-> OK(0x42)", "-> OK", "-> AddressNack"] := by decide +kernel

/-- The intent trace of a read shows the placeholder (R121; P2). -/
theorem test_intent_of_read :
    intentTrace [.wr .cr 0xA4, .rd .cr 0xA4, .rd .sr 0x08, .wr .dr 0x41, .wr .cr 0xC4, .rd .cr 0xC4, .rd .sr 0x40, .wr .dr 0x00,
      .wr .cr 0xC4, .rd .cr 0xC4, .rd .sr 0x50, .rd .dr 0x42, .wr .cr 0x94] =
      [.startCond, .clock (some 0x41), .clock (some 0x00), .stopCond] := by decide

/-- A line that is one command is issued as it stands, after a fault too (V86). -/
theorem test_single_line_inputs :
    [lineInputs (.writeByte 0x55), lineInputs .readByte, lineInputs (.probe 0x7F .read)] =
      [some [.issue 0x30055], some [.issue 0x40000], some [.issue 0x2FF00, .issue 0x50000]] := by decide

/-- R5: a table whose `ST_ARB_LOST` is an expected code, and one with a low bit set, give no machine; RefBus must have the engine's table. -/
theorem test_boot_checks_table :
    [State.boot ⟨{ defaultStatus with arbLost := 0x08 }, 0x48, 0⟩, State.boot ⟨{ defaultStatus with dataTxNack := 0x31 }, 0x48, 0⟩,
      State.bootRefBus ⟨defaultStatus, 0x48, 0⟩ { ackAll with st := { defaultStatus with start := 0x10 } }].all (·.isNone) = true ∧
    (State.bootRefBus ⟨defaultStatus, 0x48, 0⟩ ackAll).isSome = true := by decide

/-- Program P8's second line: WRITE_TRANSACTION hangs against Dead. -/
def hung (h : List Event) : State :=
  { engine .idle ((refBusInitial dead).write .cr 0xA4) with cur := some ⟨.writeTransaction 0x20 0x55, 2, none, 0⟩, hist := h }

theorem hung_busy : ((refBusInitial dead).write .cr 0xA4).Busy 0x24 ((refBusInitial dead).write .cr 0xA4) := ⟨by decide, by decide⟩

theorem hung_stays (n : Nat) (h : List Event) : ∃ t, Host.Core.run core n (hung h) = .next t ∧ t.cur ≠ none := by
  induction n generalizing h with
  | zero => exact ⟨_, rfl, fun e => (by cases e)⟩
  | succ n ih =>
    have hm : microStep ⟨.writeTransaction 0x20 0x55, 2, none, 0⟩ (hung h) = .wait (hung (h ++ [.rd .cr 0x24])) := awaitAndCheck_busy hung_busy
    have hs : step (hung h) = .next (hung (h ++ [.rd .cr 0x24])) := runToWait_wait rfl hm
    rw [core_run_next hs]
    exact ih _

/-- Program P8: the STOP that is refused while WRITE_TRANSACTION hangs leaves the run not ended; an illegal word there as well (log 20). -/
theorem test_verdict_of_hang :
    Judged { hung [] with inputs := [.issueNow 0x50000] } .notEnded ∧ Judged { hung [] with inputs := [.issueNow 0x00000] } .notEnded :=
  ⟨⟨fun n => hung_stays n [], by rintro ⟨k, rest, h⟩; cases h⟩, ⟨fun n => hung_stays n [], by rintro ⟨k, rest, h⟩; cases h⟩⟩

/-- A word refused in a wait that would have ended, at the next poll: ended badly (R166). -/
theorem test_verdict_refused_in_wait :
    Judged { engine .dataPhase (answering [0xC4, 0x28]) with
      cur := some ⟨.writeByte 0x55, 3, none, 0⟩, inputs := [.issueNow 0x50000] } .endedBadly :=
  .inl ⟨fun h => (by obtain ⟨t, ht, hc⟩ := h 1; cases ht; exact hc rfl), _, rfl⟩

/-- The other verdicts of R166: ended well, a transaction left open, a word refused. -/
theorem test_verdicts :
    Judged (engine .complete (answering [])) .endedWell ∧ Judged (engine .faulted (answering [])) .endedBadly ∧
      Judged { engine .idle (answering []) with inputs := [.issue 0x50000] } .endedBadly :=
  ⟨⟨rfl, rfl, .inr rfl⟩, .inr ⟨rfl, rfl, by decide, by decide⟩, .inl ⟨fun h => h.cur_ne_none rfl, _, rfl⟩⟩

/-! ### Every statement's hypotheses can be met: for each a state, and one for each of its clauses -/

/-- An engine whose command stands at a wait. -/
def waiting (i : Instr) (n : Nat) (f : Fsm) (b : Bus) : State := { engine f b with cur := some ⟨i, n, none, 0x00⟩ }

theorem engine_inv (f : Fsm) (b : Bus) (hf : f ≠ .started) : EngineInv (engine f b) where
  boundary _ := hf
  inFlight c hc := by cases hc
  noResult h := (h rfl).elim
  beforeInit h := by cases h
  result r hr := by cases hr
  config := (by decide : defaultStatus.wellFormed = true)

theorem waiting_inv (i : Instr) (n : Nat) (f : Fsm) (b : Bus) (h : waitsAt i n f) : EngineInv (waiting i n f b) where
  boundary h := by cases h
  inFlight c hc := by cases hc; exact ⟨h, rfl, rfl⟩
  noResult _ := rfl
  beforeInit h := by cases h
  result r hr := by cases hr
  config := (by decide : defaultStatus.wellFormed = true)

theorem engine_orderly : Orderly (engine .complete (answering [])
    |> fun s => { s with hist := [.wr .brr 0x48, .wr .psr 0x01, .wr .cr 0xA4, .rd .cr 0x80, .rd .sr 0x10, .wr .cr 0x94] }) :=
  ⟨⟨true, true, none, .closed⟩, by decide, fun _ => ⟨rfl, rfl⟩, rfl⟩

theorem busy_of (l : List Byte) (c : Byte) (h : completionFlag c = false) (ctl : ControllerRegs) (n : Nat) :
    (Bus.mk ctl (.oracle (c :: l)) n).Busy c ⟨ctl.set .cr c, .oracle l, n⟩ := ⟨rfl, h⟩

theorem answers_of (l : List Byte) (c v : Byte) (h : completionFlag c = true) (ctl : ControllerRegs) (n : Nat) :
    (Bus.mk ctl (.oracle (c :: v :: l)) n).Answers c v ⟨(ctl.set .cr c).set .sr v, .oracle l, n⟩ := ⟨rfl, h, rfl⟩

theorem witness_DecodedWordsEncodeBack :
    decode (.command 0x6FEFF) = .ok (.writeTransaction 0x7F 0xFF) ∧ decode (.control 0x94) = .ok .cwStop := by decide

/-- One illegal word of each kind R60 lists, and a state the word is presented to. -/
theorem witness_IllegalWordsAreRefused :
    ([0x0FFFF, 0x80000, 0xFFFFF, 0x18000, 0x40001, 0x50100, 0x20080, 0x30100, 0x60100, 0x70000, 0x70101] : List CommandWord).all
      (fun w => (decodeCommand w).toOption == none) = true ∧
    { engine .idle (answering []) with inputs := [.issueNow 0x00000] }.inputs = .issueNow 0x00000 :: [] := by decide

theorem witness_AddressPhaseByte :
    encode (.start 0x7F .read) = .command 0x2FF00 ∧ encode (.writeTransaction 0x7F 0xFF) = .command 0x6FEFF ∧
      encode (.readTransaction 0x00) = .command 0x70100 := by decide

/-- A primitive and a composite; a code that is `ST_ARB_LOST` and one that is in no row of the table. -/
theorem witness_FailedCheckRaisesFault :
    (expectedAt defaultStatus .readByte 3 = some (0x50, .readError) ∧ closingStop .readByte = none ∧
      ∃ x v b, (answering [0xC4, 0x58]).Answers x v b ∧ statusCode v ≠ 0x50 ∧ statusCode v ≠ defaultStatus.arbLost) ∧
    (expectedAt defaultStatus (.writeTransaction 0x20 0x55) 5 = some (0x18, .addressNack) ∧
      closingStop (.writeTransaction 0x20 0x55) = some 9 ∧
      ∃ x v b, (answering [0xC4, 0x3F]).Answers x v b ∧ statusCode v ≠ 0x18 ∧ statusCode v = defaultStatus.arbLost) :=
  ⟨⟨rfl, rfl, _, _, _, answers_of _ _ _ (by decide) _ _, by decide, by decide⟩,
    ⟨rfl, rfl, _, _, _, answers_of _ _ _ (by decide) _ _, by decide, by decide⟩⟩

theorem witness_FaultEntry :
    (∀ a b, (⟨.readByte, 3, none, 0⟩ : Cur).cmd ≠ .writeTransaction a b) ∧ (∀ a, (⟨.readByte, 3, none, 0⟩ : Cur).cmd ≠ .readTransaction a) ∧
      (⟨.writeTransaction 0x7F 0xFF, 8, none, 0⟩ : Cur).cmd = .writeTransaction 0x7F 0xFF ∧
      (⟨.readTransaction 0x7F, 2, none, 0⟩ : Cur).cmd = .readTransaction 0x7F :=
  ⟨fun _ _ h => (by cases h), fun _ h => (by cases h), rfl, rfl⟩

theorem witness_PortRecordsAccesses :
    (engine .idle (answering [0xFF])).bus.env = .oracle (0xFF :: []) ∧
      (engine .idle (refBusInitial ackAll)).bus.isRefBus ackAll (RefBusState.initial ackAll) := ⟨rfl, rfl⟩

theorem witness_InitOutcome :
    (engine .faulted (answering [])).cur = none ∧ (waiting .readByte 3 .dataPhase (answering [])).cur ≠ none := ⟨rfl, by decide⟩

/-- START: not admitted; and each of the five ways it can go, over answers of the oracle. -/
theorem witness_StartOutcomes :
    ¬ Admitted (.start 0x00 .write) (engine .dataPhase (answering [])) ∧
    Admitted (.start 0x7F .read) (engine .complete (answering [0xA4, 0x0F, 0xC4, 0x40])) ∧
    (∃ x b, ((answering [0x24]).write .cr 0xA4).Busy x b) ∧
    (∃ x v b, ((answering [0xA4, 0x10]).write .cr 0xA4).Answers x v b ∧ statusCode v ≠ defaultStatus.start) ∧
    (∃ x v b, ((answering [0xA4, 0x0F, 0x44]).write .cr 0xA4).Answers x v b ∧ statusCode v = defaultStatus.start ∧
      ∃ y d, ((b.write .dr 0xFF).write .cr 0xC4).Busy y d) ∧
    (∃ x v b, ((answering [0xA4, 0x0F, 0xC4, 0x18]).write .cr 0xA4).Answers x v b ∧ statusCode v = defaultStatus.start ∧
      ∃ y u d, ((b.write .dr 0xFF).write .cr 0xC4).Answers y u d ∧ statusCode u ≠ addrAck defaultStatus .read) ∧
    (∃ x v b, ((answering [0xA4, 0x0F, 0xC4, 0x40]).write .cr 0xA4).Answers x v b ∧ statusCode v = defaultStatus.start ∧
      ∃ y u d, ((b.write .dr 0xFF).write .cr 0xC4).Answers y u d ∧ statusCode u = addrAck defaultStatus .read) :=
  ⟨fun h => (by rcases h.2.2 with h | h <;> cases h), ⟨rfl, fun _ => rfl, .inr rfl⟩,
    ⟨_, _, busy_of _ _ (by decide) _ _⟩,
    ⟨_, _, _, answers_of _ _ _ (by decide) _ _, by decide⟩,
    ⟨_, _, _, answers_of _ _ _ (by decide) _ _, by decide, _, _, busy_of _ _ (by decide) _ _⟩,
    ⟨_, _, _, answers_of _ _ _ (by decide) _ _, by decide, _, _, _, answers_of _ _ _ (by decide) _ _, by decide⟩,
    ⟨_, _, _, answers_of _ _ _ (by decide) _ _, by decide, _, _, _, answers_of _ _ _ (by decide) _ _, by decide⟩⟩

theorem witness_WriteByteOutcomes :
    ¬ Admitted (.writeByte 0x00) (engine .idle (answering [])) ∧ Admitted (.writeByte 0xFF) (engine .dataPhase (answering [0xC4, 0x28])) ∧
    (∃ x b, (((answering [0x44]).write .dr 0xFF).write .cr 0xC4).Busy x b) ∧
    (∃ x v b, (((answering [0xC4, 0x30]).write .dr 0xFF).write .cr 0xC4).Answers x v b ∧ statusCode v ≠ defaultStatus.dataTxAck) ∧
    (∃ x v b, (((answering [0xC4, 0x28]).write .dr 0xFF).write .cr 0xC4).Answers x v b ∧ statusCode v = defaultStatus.dataTxAck) :=
  ⟨fun h => (by rcases h.2.2 with h | h <;> cases h), ⟨rfl, fun _ => rfl, .inr rfl⟩,
    ⟨_, _, busy_of _ _ (by decide) _ _⟩,
    ⟨_, _, _, answers_of _ _ _ (by decide) _ _, by decide⟩,
    ⟨_, _, _, answers_of _ _ _ (by decide) _ _, by decide⟩⟩

theorem witness_ReadByteOutcomes :
    ¬ Admitted .readByte (engine .faulted (answering [])) ∧ Admitted .readByte (engine .addressSent (answering [0xC4, 0x50, 0x42])) ∧
    (∃ x b, (((answering [0x44]).write .dr 0x00).write .cr 0xC4).Busy x b) ∧
    (∃ x v b, (((answering [0xC4, 0x58]).write .dr 0x00).write .cr 0xC4).Answers x v b ∧ statusCode v ≠ defaultStatus.dataRxAck) ∧
    (∃ x v b, (((answering [0xC4, 0x50, 0x42]).write .dr 0x00).write .cr 0xC4).Answers x v b ∧ statusCode v = defaultStatus.dataRxAck ∧
      ∃ y d, b.read .dr = (y, d)) :=
  ⟨fun h => (by rcases h.2.2 with h | h <;> cases h), ⟨rfl, fun _ => rfl, .inl rfl⟩,
    ⟨_, _, busy_of _ _ (by decide) _ _⟩,
    ⟨_, _, _, answers_of _ _ _ (by decide) _ _, by decide⟩,
    ⟨_, _, _, answers_of _ _ _ (by decide) _ _, by decide, _, _, rfl⟩⟩

/-- STOP: not admitted in Idle and Complete; admitted in each of its three states. -/
theorem witness_StopOutcome :
    ¬ Admitted .stop (engine .idle (answering [])) ∧ ¬ Admitted .stop (engine .complete (answering [])) ∧
    Admitted .stop (engine .dataPhase (answering [])) ∧ Admitted .stop (engine .addressSent (answering [])) ∧
    Admitted .stop (engine .faulted (answering [])) :=
  ⟨fun h => (by rcases h.2.2 with h | h | h <;> cases h), fun h => (by rcases h.2.2 with h | h | h <;> cases h),
    ⟨rfl, fun _ => rfl, .inr (.inl rfl)⟩, ⟨rfl, fun _ => rfl, .inl rfl⟩, ⟨rfl, fun _ => rfl, .inr (.inr rfl)⟩⟩

theorem witness_WriteTransactionOutcomes :
    ¬ Admitted (.writeTransaction 0x20 0x55) (engine .addressSent (answering [])) ∧
    Admitted (.writeTransaction 0x7F 0xFF) (engine .idle (answering [0xA4, 0x08, 0xC4, 0x18, 0xC4, 0x28])) ∧
    (∃ x b, ((answering [0x24]).write .cr 0xA4).Busy x b) ∧
    (∃ x v b, ((answering [0xA4, 0x38]).write .cr 0xA4).Answers x v b ∧ statusCode v ≠ defaultStatus.start) ∧
    (∃ x v b, ((answering [0xA4, 0x08, 0x44]).write .cr 0xA4).Answers x v b ∧ statusCode v = defaultStatus.start ∧
      ∃ y d, ((b.write .dr 0xFE).write .cr 0xC4).Busy y d) ∧
    (∃ x v b, ((answering [0xA4, 0x08, 0xC4, 0x20]).write .cr 0xA4).Answers x v b ∧ statusCode v = defaultStatus.start ∧
      ∃ y u d, ((b.write .dr 0xFE).write .cr 0xC4).Answers y u d ∧ statusCode u ≠ defaultStatus.addrAckW) ∧
    (∃ x v b, ((answering [0xA4, 0x08, 0xC4, 0x18, 0x44]).write .cr 0xA4).Answers x v b ∧ statusCode v = defaultStatus.start ∧
      ∃ y u d, ((b.write .dr 0xFE).write .cr 0xC4).Answers y u d ∧ statusCode u = defaultStatus.addrAckW ∧
        ∃ z e, ((d.write .dr 0xFF).write .cr 0xC4).Busy z e) ∧
    (∃ x v b, ((answering [0xA4, 0x08, 0xC4, 0x18, 0xC4, 0x30]).write .cr 0xA4).Answers x v b ∧ statusCode v = defaultStatus.start ∧
      ∃ y u d, ((b.write .dr 0xFE).write .cr 0xC4).Answers y u d ∧ statusCode u = defaultStatus.addrAckW ∧
        ∃ z k e, ((d.write .dr 0xFF).write .cr 0xC4).Answers z k e ∧ statusCode k ≠ defaultStatus.dataTxAck) ∧
    (∃ x v b, ((answering [0xA4, 0x08, 0xC4, 0x18, 0xC4, 0x28]).write .cr 0xA4).Answers x v b ∧ statusCode v = defaultStatus.start ∧
      ∃ y u d, ((b.write .dr 0xFE).write .cr 0xC4).Answers y u d ∧ statusCode u = defaultStatus.addrAckW ∧
        ∃ z k e, ((d.write .dr 0xFF).write .cr 0xC4).Answers z k e ∧ statusCode k = defaultStatus.dataTxAck) :=
  ⟨fun h => (by rcases h.2.2 with h | h <;> cases h), ⟨rfl, fun _ => rfl, .inl rfl⟩,
    ⟨_, _, busy_of _ _ (by decide) _ _⟩,
    ⟨_, _, _, answers_of _ _ _ (by decide) _ _, by decide⟩,
    ⟨_, _, _, answers_of _ _ _ (by decide) _ _, by decide, _, _, busy_of _ _ (by decide) _ _⟩,
    ⟨_, _, _, answers_of _ _ _ (by decide) _ _, by decide, _, _, _, answers_of _ _ _ (by decide) _ _, by decide⟩,
    ⟨_, _, _, answers_of _ _ _ (by decide) _ _, by decide, _, _, _, answers_of _ _ _ (by decide) _ _, by decide, _, _,
      busy_of _ _ (by decide) _ _⟩,
    ⟨_, _, _, answers_of _ _ _ (by decide) _ _, by decide, _, _, _, answers_of _ _ _ (by decide) _ _, by decide, _, _, _,
      answers_of _ _ _ (by decide) _ _, by decide⟩,
    ⟨_, _, _, answers_of _ _ _ (by decide) _ _, by decide, _, _, _, answers_of _ _ _ (by decide) _ _, by decide, _, _, _,
      answers_of _ _ _ (by decide) _ _, by decide⟩⟩

theorem witness_ReadTransactionOutcomes :
    ¬ Admitted (.readTransaction 0x20) (engine .faulted (answering [])) ∧
    Admitted (.readTransaction 0x7F) (engine .complete (answering [0xA4, 0x08, 0xC4, 0x40, 0xC4, 0x50, 0x42])) ∧
    (∃ x b, ((answering [0x24]).write .cr 0xA4).Busy x b) ∧
    (∃ x v b, ((answering [0xA4, 0x38]).write .cr 0xA4).Answers x v b ∧ statusCode v ≠ defaultStatus.start) ∧
    (∃ x v b, ((answering [0xA4, 0x08, 0x44]).write .cr 0xA4).Answers x v b ∧ statusCode v = defaultStatus.start ∧
      ∃ y d, ((b.write .dr 0xFF).write .cr 0xC4).Busy y d) ∧
    (∃ x v b, ((answering [0xA4, 0x08, 0xC4, 0x48]).write .cr 0xA4).Answers x v b ∧ statusCode v = defaultStatus.start ∧
      ∃ y u d, ((b.write .dr 0xFF).write .cr 0xC4).Answers y u d ∧ statusCode u ≠ defaultStatus.addrAckR) ∧
    (∃ x v b, ((answering [0xA4, 0x08, 0xC4, 0x40, 0x44]).write .cr 0xA4).Answers x v b ∧ statusCode v = defaultStatus.start ∧
      ∃ y u d, ((b.write .dr 0xFF).write .cr 0xC4).Answers y u d ∧ statusCode u = defaultStatus.addrAckR ∧
        ∃ z e, ((d.write .dr 0x00).write .cr 0xC4).Busy z e) ∧
    (∃ x v b, ((answering [0xA4, 0x08, 0xC4, 0x40, 0xC4, 0x58]).write .cr 0xA4).Answers x v b ∧ statusCode v = defaultStatus.start ∧
      ∃ y u d, ((b.write .dr 0xFF).write .cr 0xC4).Answers y u d ∧ statusCode u = defaultStatus.addrAckR ∧
        ∃ z k e, ((d.write .dr 0x00).write .cr 0xC4).Answers z k e ∧ statusCode k ≠ defaultStatus.dataRxAck) ∧
    (∃ x v b, ((answering [0xA4, 0x08, 0xC4, 0x40, 0xC4, 0x50, 0x42]).write .cr 0xA4).Answers x v b ∧ statusCode v = defaultStatus.start ∧
      ∃ y u d, ((b.write .dr 0xFF).write .cr 0xC4).Answers y u d ∧ statusCode u = defaultStatus.addrAckR ∧
        ∃ z k e, ((d.write .dr 0x00).write .cr 0xC4).Answers z k e ∧ statusCode k = defaultStatus.dataRxAck ∧ ∃ q f, e.read .dr = (q, f)) :=
  ⟨fun h => (by rcases h.2.2 with h | h <;> cases h), ⟨rfl, fun _ => rfl, .inr rfl⟩,
    ⟨_, _, busy_of _ _ (by decide) _ _⟩,
    ⟨_, _, _, answers_of _ _ _ (by decide) _ _, by decide⟩,
    ⟨_, _, _, answers_of _ _ _ (by decide) _ _, by decide, _, _, busy_of _ _ (by decide) _ _⟩,
    ⟨_, _, _, answers_of _ _ _ (by decide) _ _, by decide, _, _, _, answers_of _ _ _ (by decide) _ _, by decide⟩,
    ⟨_, _, _, answers_of _ _ _ (by decide) _ _, by decide, _, _, _, answers_of _ _ _ (by decide) _ _, by decide, _, _,
      busy_of _ _ (by decide) _ _⟩,
    ⟨_, _, _, answers_of _ _ _ (by decide) _ _, by decide, _, _, _, answers_of _ _ _ (by decide) _ _, by decide, _, _, _,
      answers_of _ _ _ (by decide) _ _, by decide⟩,
    ⟨_, _, _, answers_of _ _ _ (by decide) _ _, by decide, _, _, _, answers_of _ _ _ (by decide) _ _, by decide, _, _, _,
      answers_of _ _ _ (by decide) _ _, by decide, _, _, rfl⟩⟩

theorem witness_WaitingPollsAgain :
    EngineInv (waiting (.start 0x20 .read) 5 .started (answering [0x44])) ∧
    ∃ x b, (waiting (.start 0x20 .read) 5 .started (answering [0x44])).bus.Busy x b :=
  ⟨waiting_inv _ _ _ _ (.inr ⟨rfl, rfl⟩), _, _, busy_of _ _ (by decide) _ _⟩

/-- A primitive and a composite whose check fails. -/
theorem witness_WaitingCheckFails :
    (EngineInv (waiting (.writeByte 0x55) 3 .dataPhase (answering [0xC4, 0x30])) ∧ closingStop (.writeByte 0x55) = none ∧
      expectedAt defaultStatus (.writeByte 0x55) 3 = some (0x28, .dataNack) ∧
      ∃ x v b, (answering [0xC4, 0x30]).Answers x v b ∧ statusCode v ≠ 0x28) ∧
    (EngineInv (waiting (.readTransaction 0x20) 2 .complete (answering [0xA4, 0x38])) ∧ closingStop (.readTransaction 0x20) ≠ none ∧
      expectedAt defaultStatus (.readTransaction 0x20) 2 = some (0x08, .startFailed) ∧
      ∃ x v b, (answering [0xA4, 0x38]).Answers x v b ∧ statusCode v ≠ 0x08) :=
  ⟨⟨waiting_inv _ _ _ _ ⟨rfl, rfl⟩, rfl, rfl, _, _, _, answers_of _ _ _ (by decide) _ _, by decide⟩,
    ⟨waiting_inv _ _ _ _ (.inl ⟨rfl, .inr rfl⟩), by decide, rfl, _, _, _, answers_of _ _ _ (by decide) _ _, by decide⟩⟩

/-- Each of the five clauses. -/
theorem witness_WaitingLastCheckPasses :
    (EngineInv (waiting (.start 0x20 .read) 5 .started (answering [0xC4, 0x40])) ∧
      expectedAt defaultStatus (.start 0x20 .read) 5 = some (0x40, .addressNack) ∧
      ∃ x v b, (answering [0xC4, 0x40]).Answers x v b ∧ statusCode v = 0x40) ∧
    (EngineInv (waiting (.writeByte 0x55) 3 .dataPhase (answering [0xC4, 0x28])) ∧
      expectedAt defaultStatus (.writeByte 0x55) 3 = some (0x28, .dataNack) ∧
      ∃ x v b, (answering [0xC4, 0x28]).Answers x v b ∧ statusCode v = 0x28) ∧
    (EngineInv (waiting .readByte 3 .dataPhase (answering [0xC4, 0x50, 0x42])) ∧
      expectedAt defaultStatus .readByte 3 = some (0x50, .readError) ∧
      ∃ x v b, (answering [0xC4, 0x50, 0x42]).Answers x v b ∧ statusCode v = 0x50 ∧ ∃ y d, b.read .dr = (y, d)) ∧
    (EngineInv (waiting (.writeTransaction 0x20 0x55) 8 .dataPhase (answering [0xC4, 0x28])) ∧
      expectedAt defaultStatus (.writeTransaction 0x20 0x55) 8 = some (0x28, .dataNack) ∧
      ∃ x v b, (answering [0xC4, 0x28]).Answers x v b ∧ statusCode v = 0x28) ∧
    (EngineInv (waiting (.readTransaction 0x20) 8 .dataPhase (answering [0xC4, 0x50, 0x42])) ∧
      expectedAt defaultStatus (.readTransaction 0x20) 8 = some (0x50, .readError) ∧
      ∃ x v b, (answering [0xC4, 0x50, 0x42]).Answers x v b ∧ statusCode v = 0x50 ∧ ∃ y d, b.read .dr = (y, d)) :=
  ⟨⟨waiting_inv _ _ _ _ (.inr ⟨rfl, rfl⟩), rfl, _, _, _, answers_of _ _ _ (by decide) _ _, by decide⟩,
    ⟨waiting_inv _ _ _ _ ⟨rfl, rfl⟩, rfl, _, _, _, answers_of _ _ _ (by decide) _ _, by decide⟩,
    ⟨waiting_inv _ _ _ _ ⟨rfl, rfl⟩, rfl, _, _, _, answers_of _ _ _ (by decide) _ _, by decide, _, _, rfl⟩,
    ⟨waiting_inv _ _ _ _ (.inr (.inr ⟨rfl, rfl⟩)), rfl, _, _, _, answers_of _ _ _ (by decide) _ _, by decide⟩,
    ⟨waiting_inv _ _ _ _ (.inr (.inr ⟨rfl, rfl⟩)), rfl, _, _, _, answers_of _ _ _ (by decide) _ _, by decide, _, _, rfl⟩⟩

/-- Each of the clauses: the three commands with a START, then the two composites after the address phase. -/
theorem witness_WaitingGoesOnToNextWait :
    (∀ i : Instr, i = .start 0x20 .read ∨ i = .writeTransaction 0x20 0x55 ∨ i = .readTransaction 0x20 →
      EngineInv (waiting i 2 .idle (answering [0xA4, 0x08])) ∧ expectedAt defaultStatus i 2 = some (0x08, .startFailed)) ∧
    (∃ x v b, (answering [0xA4, 0x08]).Answers x v b ∧ statusCode v = 0x08) ∧
    (EngineInv (waiting (.writeTransaction 0x20 0x55) 5 .started (answering [0xC4, 0x18])) ∧
      expectedAt defaultStatus (.writeTransaction 0x20 0x55) 5 = some (0x18, .addressNack) ∧
      ∃ x v b, (answering [0xC4, 0x18]).Answers x v b ∧ statusCode v = 0x18) ∧
    (EngineInv (waiting (.readTransaction 0x20) 5 .started (answering [0xC4, 0x40])) ∧
      expectedAt defaultStatus (.readTransaction 0x20) 5 = some (0x40, .addressNack) ∧
      ∃ x v b, (answering [0xC4, 0x40]).Answers x v b ∧ statusCode v = 0x40) :=
  ⟨fun i hi => by
      rcases hi with rfl | rfl | rfl
      · exact ⟨waiting_inv _ _ _ _ (.inl ⟨rfl, .inl rfl⟩), rfl⟩
      · exact ⟨waiting_inv _ _ _ _ (.inl ⟨rfl, .inl rfl⟩), rfl⟩
      · exact ⟨waiting_inv _ _ _ _ (.inl ⟨rfl, .inl rfl⟩), rfl⟩,
    ⟨_, _, _, answers_of _ _ _ (by decide) _ _, by decide⟩,
    ⟨waiting_inv _ _ _ _ (.inr (.inl ⟨rfl, rfl⟩)), rfl, _, _, _, answers_of _ _ _ (by decide) _ _, by decide⟩,
    ⟨waiting_inv _ _ _ _ (.inr (.inl ⟨rfl, rfl⟩)), rfl, _, _, _, answers_of _ _ _ (by decide) _ _, by decide⟩⟩

theorem witness_AdmissionDecides :
    (Instr.readTransaction 0x7F).isCommand = true ∧ Admitted (.readTransaction 0x7F) (engine .complete (answering [])) ∧
      ¬ Admitted (.readTransaction 0x7F) (engine .dataPhase (answering [])) :=
  ⟨rfl, ⟨rfl, fun _ => rfl, .inr rfl⟩, fun h => (by rcases h.2.2 with h | h <;> cases h)⟩

theorem witness_RefusedWhileInFlight :
    { waiting .readByte 3 .dataPhase (answering []) with inputs := [.issueNow 0x50000] }.cur ≠ none ∧
      { waiting .readByte 3 .dataPhase (answering []) with inputs := [.issueNow 0x50000] }.inputs = [.issueNow 0x50000] := by decide

theorem witness_StepRunsDecodedInstruction :
    decode (.command 0x2FF00) = .ok (.start 0x7F .read) ∧ decode (.control 0xC4) = .ok .cwClock ∧
      { engine .idle (answering []) with inputs := [.issueNow 0x2FF00] }.inputs = .issueNow 0x2FF00 :: [] ∧
      { engine .idle (answering []) with inputs := [.issue 0x2FF00, .reset 0] }.inputs = .issue 0x2FF00 :: [.reset 0] ∧
      { engine .idle (answering []) with inputs := [.control 0xC4] }.inputs = .control 0xC4 :: [] ∧
      (engine .idle (answering [])).cur = none ∧
      decode (.command 0x300FF) = .ok (.writeByte 0xFF) ∧
      { engine .addressSent (answering []) with res := some 0x0FF, inputs := [.issueUnlessFault 0x300FF] }.inputs =
        .issueUnlessFault 0x300FF :: [] ∧
      resultFault 0x0FF = 0 := by decide

theorem witness_PlacedWordRuns :
    decodeTableWord 24 0x7FF00 = some (.readTransaction 0x7F) ∧ decodeTableWord 8 0x94 = some .cwStop ∧ State.reset.cur = none :=
  ⟨by decide, by decide, rfl⟩

theorem witness_CallerBlockedWhileInFlight :
    ∀ i ∈ [Input.issue 0x50000, .issueUnlessFault 0x40000, .issueThenReset 0x50000 1],
      { waiting .readByte 3 .dataPhase (answering [0x44]) with inputs := [i] }.cur ≠ none ∧
      (stateOf (step { waiting .readByte 3 .dataPhase (answering [0x44]) with inputs := [i] })).isSome = true := by decide

/-- WRITE_REG after a fault of its START: two data phases, then STOP; and operands at their limits. -/
theorem witness_ExpansionSkipsToStopAfterFault :
    127 ≤ 127 ∧ 255 ≤ 255 ∧ assemble (.writeByte 255) = some [.writeByte 0xFF] ∧
    let s : State := { engine .faulted (answering []) with
      res := some 0x200, inputs := [.issueUnlessFault 0x30003, .issueUnlessFault 0x300A5, .issue 0x50000] }
    s.cur = none ∧ s.res = some (resultWord (some .addressNack) 0x00) ∧
      s.inputs = [.issueUnlessFault 0x30003, .issueUnlessFault 0x300A5] ++ .issue 0x50000 :: [] := by decide

/-- A reset in the middle of a transaction, and one in the middle of a command. -/
theorem witness_ResetEvent :
    { engine .dataPhase (answering []) with inputs := [.reset 0] }.inputs = .reset 0 :: [] ∧
      { waiting .readByte 3 .dataPhase (answering []) with inputs := [.reset 0] }.inputs = .reset 0 :: [] := by decide

/-- At a wait; in a command just taken, before its first wait; and a command that is not admitted. -/
theorem witness_ResetAnywhere :
    EngineInv { waiting .readByte 3 .dataPhase (answering [0xC4, 0x50]) with inputs := [.reset 1] } ∧
    (EngineInv { engine .addressSent (answering []) with inputs := [.issueThenReset 0x300FF 1] } ∧
      encode (.writeByte 0xFF) = .command 0x300FF ∧
      Admitted (.writeByte 0xFF) { engine .addressSent (answering []) with inputs := [.issueThenReset 0x300FF 1] } ∧
      ¬ Admitted (.writeByte 0xFF) { engine .idle (answering []) with inputs := [.issueThenReset 0x300FF 1] }) :=
  let h := waiting_inv .readByte 3 .dataPhase (answering [0xC4, 0x50]) ⟨rfl, rfl⟩
  let g := engine_inv .addressSent (answering []) (by decide)
  ⟨⟨h.boundary, h.inFlight, h.noResult, h.beforeInit, h.result, h.config⟩,
    ⟨g.boundary, g.inFlight, g.noResult, g.beforeInit, g.result, g.config⟩, by decide, ⟨rfl, fun _ => rfl, .inl rfl⟩,
    fun h => (by rcases h.2.2 with h | h <;> cases h)⟩

/-- A machine against the oracle, and one against RefBus. -/
theorem witness_ResetMeetsInvariants :
    (∃ s, State.boot ⟨defaultStatus, 0x48, 0⟩ = some s) ∧ ∃ s, State.bootRefBus ⟨defaultStatus, 0x48, 0⟩ slow3 = some s :=
  ⟨⟨_, rfl⟩, _, rfl⟩

theorem witness_StepKeepsInv :
    EngineInv (waiting (.writeTransaction 0x20 0x55) 5 .started (answering [0xC4, 0x18, 0x44])) ∧
      ∃ t, step (waiting (.writeTransaction 0x20 0x55) 5 .started (answering [0xC4, 0x18, 0x44])) = .next t :=
  ⟨waiting_inv _ _ _ _ (.inr (.inl ⟨rfl, rfl⟩)), _, rfl⟩

theorem witness_StepKeepsPortDiscipline :
    (engine .idle (answering [0x24])).hist.all Event.allowed = true ∧
      ∃ t, step { engine .idle (answering [0x24]) with inputs := [.issue 0x24000] } = .next t := ⟨rfl, _, rfl⟩

theorem witness_StepKeepsAccessOrder :
    EngineInv (waiting .readByte 3 .dataPhase (answering [0xC4, 0x58])) ∧ CallerOnly (waiting .readByte 3 .dataPhase (answering [])).inputs ∧
      accessOrder none [.wr .dr 0x00, .wr .cr 0xC4] = true ∧
      ∃ t, step (waiting .readByte 3 .dataPhase (answering [0xC4, 0x58])) = .next t :=
  ⟨waiting_inv _ _ _ _ ⟨rfl, rfl⟩, fun _ h => by simp [waiting, engine] at h, by decide, _, rfl⟩

theorem witness_StepKeepsOrderly :
    let s : State := { engine .complete (answering []) with
      hist := [.wr .brr 0x48, .wr .psr 0x01, .wr .cr 0xA4, .rd .cr 0x80, .rd .sr 0x10, .wr .cr 0x94] }
    EngineInv s ∧ CallerOnly s.inputs ∧ Orderly s ∧ ∃ t, step s = .next t :=
  let h := engine_inv .complete (answering []) (by decide)
  ⟨⟨h.boundary, h.inFlight, h.noResult, h.beforeInit, h.result, h.config⟩, fun _ h => by simp [engine] at h, engine_orderly, _, rfl⟩

theorem witness_StepNeverFaults : EngineInv (waiting (.start 0x7F .write) 2 .complete (answering [])) :=
  waiting_inv _ _ _ _ (.inl ⟨rfl, .inr rfl⟩)

/-- A step, and a step that clears `INITD`. -/
theorem witness_ConfigFixedInitdSticky :
    ∃ t, step { engine .idle (answering []) with inputs := [.reset 0] } = .next t ∧
      { engine .idle (answering []) with inputs := [.reset 0] }.initd = true ∧ t.initd = false := ⟨_, rfl, rfl, rfl⟩

/-- A composite that returns at once, one that waits, and one that goes on after a wait. -/
theorem witness_CompositesStopExactlyOnce :
    closingStop (.readTransaction 0x20) ≠ none ∧
    (∃ t, exec (.readTransaction 0x20) (engine .idle (answering [0xA4, 0x08, 0xC4, 0x48])) = .next t ∧ t.cur = none) ∧
    (∃ t, exec (.readTransaction 0x20) (engine .idle (answering [0x24])) = .next t ∧ t.cur ≠ none) ∧
    (EngineInv (waiting (.readTransaction 0x20) 2 .idle (answering [0xA4, 0x38])) ∧
      ∃ t, step (waiting (.readTransaction 0x20) 2 .idle (answering [0xA4, 0x38])) = .next t ∧ t.cur = none) :=
  ⟨by decide, ⟨_, rfl, rfl⟩, ⟨_, rfl, by decide⟩, waiting_inv _ _ _ _ (.inl ⟨rfl, .inl rfl⟩), _, rfl, rfl⟩

theorem witness_PrimitivesLeaveStopToCaller :
    (∃ t, exec .readByte (engine .addressSent (answering [0xC4, 0x58])) = .next t ∧ t.cur = none) ∧
    (∃ t, exec (.writeByte 0x55) (engine .dataPhase (answering [0xC4, 0x28])) = .next t ∧ t.cur = none) ∧
    (EngineInv (waiting (.start 0x20 .write) 2 .idle (answering [0xA4, 0x10])) ∧
      ∃ t, step (waiting (.start 0x20 .write) 2 .idle (answering [0xA4, 0x10])) = .next t ∧ t.cur = none) :=
  ⟨⟨_, rfl, rfl⟩, ⟨_, rfl, rfl⟩, waiting_inv _ _ _ _ (.inl ⟨rfl, .inl rfl⟩), _, rfl, rfl⟩

theorem witness_FaultedLeftOnlyByStop :
    (∃ t, exec .stop (engine .faulted (answering [])) = .next t) ∧ (∃ t, exec .init (engine .faulted (answering [])) = .next t) :=
  ⟨⟨_, rfl⟩, ⟨_, rfl⟩⟩

theorem witness_IdleCompleteAlike : (Instr.start 0x20 .write).isCommand = true ∧ Instr.stop.isCommand = true := by decide

theorem witness_CompositesLeakNoState :
    Admitted (.writeTransaction 0x20 0x55) (engine .idle (answering [0x24])) ∧
      Admitted (.writeTransaction 0x20 0x55) { engine .complete (answering [0x24]) with txb := 0x01, rxb := 0x02 } ∧
      (engine .idle (answering [0x24])).bus = { engine .complete (answering [0x24]) with txb := 0x01, rxb := 0x02 }.bus :=
  ⟨⟨rfl, fun _ => rfl, .inl rfl⟩, ⟨rfl, fun _ => rfl, .inr rfl⟩, rfl⟩

/-- Two steps: START that fails, then STOP. -/
theorem witness_StartThenStopReleases :
    let s : State := { engine .complete (answering [0xA4, 0x10]) with inputs := [.issue 0x2FF00, .issue 0x50000] }
    Admitted (.start 0x7F .read) s ∧ encode (.start 0x7F .read) = .command 0x2FF00 ∧
      ∃ t, Host.Core.run Sys2Proof.core 2 s = .next t ∧ t.inputs = [] ∧ t.cur = none :=
  ⟨⟨rfl, fun _ => rfl, .inr rfl⟩, by decide, _, rfl, rfl, rfl⟩

/-- READ_BYTE issued; going on after a wait; and presented to a step. -/
theorem witness_ReceiveBufferWrittenOnlyByReads :
    (∃ t, exec .readByte (engine .addressSent (answering [0xC4, 0x50, 0x42])) = .next t ∧
      t.rxb ≠ (engine .addressSent (answering [0xC4, 0x50, 0x42])).rxb) ∧
    (EngineInv (waiting (.readTransaction 0x20) 8 .dataPhase (answering [0xC4, 0x50, 0x42])) ∧
      ∃ t, step (waiting (.readTransaction 0x20) 8 .dataPhase (answering [0xC4, 0x50, 0x42])) = .next t ∧
        t.rxb ≠ (waiting (.readTransaction 0x20) 8 .dataPhase (answering [0xC4, 0x50, 0x42])).rxb) ∧
    ∃ t, step { engine .addressSent (answering [0xC4, 0x50, 0x42]) with inputs := [.issue 0x40000] } = .next t ∧ t.rxb ≠ 0xDD :=
  ⟨⟨_, rfl, by decide⟩, ⟨waiting_inv _ _ _ _ (.inr (.inr ⟨rfl, rfl⟩)), _, rfl, by decide⟩, _, rfl, by decide⟩

theorem witness_InitIdempotent : ∃ t, exec .init (engine .faulted (answering [])) = .next t := ⟨_, rfl⟩

theorem witness_StaleBuffersUnobservable :
    SameButBuffers (engine .idle (answering [])) { engine .idle (answering []) with txb := 0x01, rxb := 0x02 } := rfl

/-- Both composites, each with a poll that sees the flag clear; and one that fails its first check. -/
theorem witness_CompositeIntentTraces :
    (∃ t u, exec (.writeTransaction 0x20 0x55) (engine .idle (answering [0xA4, 0x08, 0xC4, 0x18, 0x44, 0xC4, 0x28])) = .next t ∧
      Host.Core.run Sys2Proof.core 1 t = .next u ∧ u.cur = none ∧ u.res = some 0x000) ∧
    (∃ t u, exec (.readTransaction 0x20) (engine .complete (answering [0x24, 0xA4, 0x08, 0xC4, 0x40, 0xC4, 0x50, 0x42])) = .next t ∧
      Host.Core.run Sys2Proof.core 1 t = .next u ∧ u.cur = none ∧ u.res = some 0x042) ∧
    (∃ t u, exec (.readTransaction 0x20) (engine .complete (answering [0xA4, 0x38])) = .next t ∧
      Host.Core.run Sys2Proof.core 0 t = .next u ∧ u.cur = none ∧ u.res = some 0x500) :=
  ⟨⟨_, _, rfl, rfl, rfl, rfl⟩, ⟨_, _, rfl, rfl, rfl, rfl⟩, _, _, rfl, rfl, rfl, rfl⟩

/-- RefBus stays RefBus through any accesses. -/
theorem accesses_refBus (cfg : RefBusConfig) (l : List Access) (b : Bus) (h : RefBusState) (hb : b.env = .refBus cfg h) :
    ∃ h', (b.accesses l).env = .refBus cfg h' := by
  induction l generalizing b h with
  | nil => exact ⟨h, hb⟩
  | cons a l ih =>
    obtain ⟨ctl, env, n⟩ := b
    simp only at hb
    subst hb
    cases a with
    | read r => exact ih _ _ rfl
    | write r v => exact ih _ _ rfl

/-- A START or byte action of `ackAll` leaves an outcome due at the first poll. -/
theorem ackAll_pending (w : ControlWord) (hw : w ≠ .stop) (dr : Byte) (h : RefBusState) :
    ∃ s d, (h.control ackAll w.byte dr).pend = some ⟨s, d, 0⟩ := by
  cases w with
  | stop => exact (hw rfl).elim
  | start =>
    simp only [RefBusState.control, RefBusState.startAction, RefBusState.result, ackAll]
    split
    · contradiction
    · simp
      split <;> exact ⟨_, _, rfl⟩
  | clock =>
    simp only [RefBusState.control, RefBusState.byteAction, RefBusState.addressAction, RefBusState.writeAction, RefBusState.readAction,
      RefBusState.result, ackAll]
    simp
    repeat' split
    all_goals first | contradiction | exact ⟨_, _, rfl⟩

/-- RefBus that acknowledges is Responsive, and a command is admitted against it. -/
theorem witness_CommandsReturnWhenResponsive :
    (Instr.readTransaction 0x20).isCommand = true ∧ Admitted (.readTransaction 0x20) (engine .complete (refBusInitial ackAll)) ∧
      (engine .complete (refBusInitial ackAll)).inputs = [] ∧ (engine .complete (refBusInitial ackAll)).bus.Responsive := by
  refine ⟨rfl, ⟨rfl, fun _ => rfl, .inr rfl⟩, rfl, fun l w hw => ⟨0, ?_⟩⟩
  obtain ⟨h, hb⟩ := accesses_refBus ackAll l (refBusInitial ackAll) _ rfl
  obtain ⟨s, d, hp⟩ := ackAll_pending w hw ((refBusInitial ackAll).accesses l).ctl.dr h
  obtain ⟨h1, h2, -⟩ := Bus.answers_control hb rfl hp
  exact (congrArg completionFlag h1).trans h2

/-- RefBus that is not dead. Its reads of `CR` and its countdown are those of `Bus.answers_refBus` and `Bus.busy_refBus`. -/
theorem witness_RefBusResponsive : (refBusInitial slow3).isRefBus slow3 (RefBusState.initial slow3) ∧ slow3.dead = false := ⟨rfl, rfl⟩

/-- A wait that has no outcome pending, and a command issued with `dead`. -/
theorem witness_RefBusHangs :
    (EngineInv (waiting (.start 0x20 .write) 2 .idle (busIn .owned dead)) ∧
      (waiting (.start 0x20 .write) 2 .idle (busIn .owned dead)).bus.isRefBus dead { RefBusState.initial dead with phase := .owned } ∧
      { RefBusState.initial dead with phase := .owned }.flag = false ∧ { RefBusState.initial dead with phase := .owned }.pend = none) ∧
    (Admitted .readByte (engine .dataPhase (busIn .addrR dead)) ∧ dead.dead = true ∧
      (engine .dataPhase (busIn .addrR dead)).bus.isRefBus dead { RefBusState.initial dead with phase := .addrR }) :=
  ⟨⟨waiting_inv _ _ _ _ (.inl ⟨rfl, .inl rfl⟩), rfl, rfl, rfl⟩, ⟨rfl, fun _ => rfl, .inr rfl⟩, rfl, rfl⟩

theorem witness_RefBusPollCount :
    let h : RefBusState := { RefBusState.initial slow3 with pend := some ⟨0x08, 0xFF, 3⟩ }
    (Bus.mk refBusRegs (.refBus slow3 h) 0).isRefBus slow3 h ∧ h.flag = false ∧ h.pend = some ⟨0x08, 0xFF, 3⟩ := ⟨rfl, rfl, rfl⟩

theorem witness_RefBusFlagStays :
    let h : RefBusState := { RefBusState.initial ackAll with flag := true }
    (Bus.mk refBusRegs (.refBus ackAll h) 0).isRefBus ackAll h ∧ h.flag = true ∧ h.pend = none ∧
      ∀ a ∈ [Access.read .cr, .write .dr 0xFF, .write .psr 0x01, .write .sr 0x00, .read .sr], ∀ v, a ≠ .write .cr v :=
  ⟨rfl, rfl, rfl, by decide⟩

theorem witness_RefBusWriteTransaction :
    Admitted (.writeTransaction 0x20 0x55) (engine .idle (refBusInitial ackAll)) ∧
      (engine .idle (refBusInitial ackAll)).cfg.wellFormed = true ∧
      (engine .idle (refBusInitial ackAll)).bus.isRefBus ackAll (RefBusState.initial ackAll) ∧
      ackAll.st = defaultStatus ∧ ackAll.present = true ∧ ackAll.nackAddr = false ∧ ackAll.nackData = false ∧
      ackAll.arbLose = .never ∧ ackAll.dead = false ∧ ackAll.pollDelay = 0 ∧ ackAll.devAddr = 0x20 ∧
      (RefBusState.initial ackAll).phase = .free :=
  ⟨⟨rfl, fun _ => rfl, .inl rfl⟩, by decide, rfl, rfl, rfl, rfl, rfl, rfl, rfl, rfl, rfl, rfl⟩

theorem witness_RefBusReadTransaction :
    Admitted (.readTransaction 0x20) (engine .complete (refBusInitial ackAll42)) ∧
      (engine .complete (refBusInitial ackAll42)).cfg.wellFormed = true ∧
      (engine .complete (refBusInitial ackAll42)).bus.isRefBus ackAll42 (RefBusState.initial ackAll42) ∧
      ackAll42.st = defaultStatus ∧ ackAll42.present = true ∧ ackAll42.nackAddr = false ∧ ackAll42.failRead = false ∧
      ackAll42.arbLose = .never ∧ ackAll42.dead = false ∧ ackAll42.pollDelay = 0 ∧ ackAll42.devAddr = 0x20 ∧
      (RefBusState.initial ackAll42).phase = .free :=
  ⟨⟨rfl, fun _ => rfl, .inr rfl⟩, by decide, rfl, rfl, rfl, rfl, rfl, rfl, rfl, rfl, rfl, rfl⟩

theorem witness_RefBusAbsentDevice :
    Admitted (.start 0x20 .read) (engine .idle (refBusInitial absent)) ∧
      (engine .idle (refBusInitial absent)).bus.isRefBus absent (RefBusState.initial absent) ∧
      absent.st = defaultStatus ∧ absent.present = false ∧ absent.arbLose = .never ∧ absent.dead = false ∧ absent.pollDelay = 0 ∧
      (RefBusState.initial absent).phase = .free ∧ defaultStatus.arbLost ≠ 0x20 ∧ defaultStatus.arbLost ≠ 0x48 :=
  ⟨⟨rfl, fun _ => rfl, .inl rfl⟩, rfl, rfl, rfl, rfl, rfl, rfl, rfl, by decide, by decide⟩

theorem witness_RefBusStopReleases :
    (engine .dataPhase (busIn .addrW ackAll)).bus.isRefBus ackAll { RefBusState.initial ackAll with phase := .addrW } ∧
      (∃ t, exec .stop (engine .dataPhase (busIn .addrW ackAll)) = .next t) ∧
      (∃ t, exec .stop (engine .faulted (busIn .lost arbAddr)) = .next t) := ⟨rfl, ⟨_, rfl⟩, ⟨_, rfl⟩⟩

theorem witness_RefBusHeldAfterReset :
    let s : State := { engine .dataPhase (busIn .addrW ackAll) with inputs := [.reset 0] }
    s.cfg.wellFormed = true ∧ s.bus.isRefBus ackAll { RefBusState.initial ackAll with phase := .addrW } ∧
      ackAll.st = s.cfg.status ∧ s.cfg.status.arbLost ≠ 0x10 ∧ s.cfg.status.start ≠ 0x10 ∧ ackAll.dead = false ∧ ackAll.pollDelay = 0 ∧
      ackAll.arbLose ≠ .atStart ∧ s.inputs = .reset 0 :: [] := ⟨by decide, rfl, rfl, by decide, by decide, rfl, rfl, by decide, rfl⟩

/-- Both clauses: the bus of a write transaction and the bus of a read transaction. -/
theorem witness_RefBusDirectionMismatch :
    defaultStatus.dataTxAck ≠ defaultStatus.dataRxAck ∧
    (Admitted .readByte (engine .addressSent (busIn .addrW ackAll)) ∧ ackAll.nackData = false ∧
      (engine .addressSent (busIn .addrW ackAll)).bus.isRefBus ackAll { RefBusState.initial ackAll with phase := .addrW }) ∧
    (Admitted (.writeByte 0x99) (engine .addressSent (busIn .addrR ackAll)) ∧ ackAll.failRead = false ∧
      (engine .addressSent (busIn .addrR ackAll)).bus.isRefBus ackAll { RefBusState.initial ackAll with phase := .addrR }) :=
  ⟨by decide, ⟨⟨rfl, fun _ => rfl, .inl rfl⟩, rfl, rfl⟩, ⟨⟨rfl, fun _ => rfl, .inl rfl⟩, rfl, rfl⟩⟩

theorem witness_OperandRangeErrors : 127 ≤ 127 ∧ 255 ≤ 255 ∧ (127 : Nat) < 128 ∧ (255 : Nat) < 256 := by decide

end Sys2Proof.Tests
end

section
/-! PROOFS. Noninterference of `TXB` and `RXB` (R12, R13): every operation takes states that differ at most in the two buffers to states that
differ at most there, and decides alike on both. -/

namespace Sys2Proof.Machine

/-! ### The state operations -/

/-- The two buffers of the second state are the only freedom the relation leaves. -/
theorem SameButBuffers.exists_eq {s s' : State} (h : SameButBuffers s s') : ∃ x y, s' = { s with txb := x, rxb := y } := ⟨_, _, h⟩

theorem SameButBuffers.cur_eq {s s' : State} (h : SameButBuffers s s') : s'.cur = s.cur := by
  obtain ⟨x, y, rfl⟩ := h.exists_eq; rfl

theorem SameButBuffers.bus_eq {s s' : State} (h : SameButBuffers s s') : s'.bus = s.bus := by
  obtain ⟨x, y, rfl⟩ := h.exists_eq; rfl

theorem SameButBuffers.cfg_eq {s s' : State} (h : SameButBuffers s s') : s'.cfg = s.cfg := by
  obtain ⟨x, y, rfl⟩ := h.exists_eq; rfl

theorem SameButBuffers.inputs_eq {s s' : State} (h : SameButBuffers s s') : s'.inputs = s.inputs := by
  obtain ⟨x, y, rfl⟩ := h.exists_eq; rfl

theorem SameButBuffers.reportsFault_eq {s s' : State} (h : SameButBuffers s s') : s'.reportsFault = s.reportsFault := by
  obtain ⟨x, y, rfl⟩ := h.exists_eq; rfl

theorem SameButBuffers.withFsm {s s' : State} (h : SameButBuffers s s') (f : Fsm) : SameButBuffers (s.withFsm f) (s'.withFsm f) := by
  obtain ⟨x, y, rfl⟩ := h.exists_eq; rfl

theorem SameButBuffers.withCur {s s' : State} (h : SameButBuffers s s') (c : Option Cur) : SameButBuffers (s.withCur c) (s'.withCur c) := by
  obtain ⟨x, y, rfl⟩ := h.exists_eq; rfl

theorem SameButBuffers.withInputs {s s' : State} (h : SameButBuffers s s') (l : List Input) :
    SameButBuffers (s.withInputs l) (s'.withInputs l) := by
  obtain ⟨x, y, rfl⟩ := h.exists_eq; rfl

theorem SameButBuffers.goTo {s s' : State} (h : SameButBuffers s s') (c : Cur) (n : Nat) : SameButBuffers (s.goTo c n) (s'.goTo c n) :=
  h.withCur _

theorem SameButBuffers.finish {s s' : State} (h : SameButBuffers s s') (flt : Option BusFault) (b : Byte) :
    SameButBuffers (s.finish flt b) (s'.finish flt b) := by
  obtain ⟨x, y, rfl⟩ := h.exists_eq; rfl

theorem SameButBuffers.assertWord {s s' : State} (h : SameButBuffers s s') (w : ControlWord) :
    SameButBuffers (s.assertWord w) (s'.assertWord w) := by
  obtain ⟨x, y, rfl⟩ := h.exists_eq; rfl

/-- `TXB` is written before it is used, so its old content is lost (R76). -/
theorem SameButBuffers.writeData {s s' : State} (h : SameButBuffers s s') (b : Byte) :
    SameButBuffers (s.writeData b) (s'.writeData b) := by
  obtain ⟨x, y, rfl⟩ := h.exists_eq; rfl

/-- `RXB` takes the byte of one and the same bus, so its old content is lost (R77). -/
theorem SameButBuffers.readData {s s' : State} (h : SameButBuffers s s') :
    SameButBuffers s.readData s'.readData ∧ s'.readData.rxb = s.readData.rxb := by
  obtain ⟨x, y, rfl⟩ := h.exists_eq; exact ⟨rfl, rfl⟩

theorem SameButBuffers.configureBitRate {s s' : State} (h : SameButBuffers s s') :
    SameButBuffers s.configureBitRate s'.configureBitRate := by
  obtain ⟨x, y, rfl⟩ := h.exists_eq; rfl

/-- The last micro-step of INIT (R80). -/
theorem SameButBuffers.configured {s s' : State} (h : SameButBuffers s s') :
    SameButBuffers (s.configurePrescaler.withInitd true) (s'.configurePrescaler.withInitd true) := by
  obtain ⟨x, y, rfl⟩ := h.exists_eq; rfl

theorem SameButBuffers.stopBody {s s' : State} (h : SameButBuffers s s') : SameButBuffers s.stopBody s'.stopBody := by
  obtain ⟨x, y, rfl⟩ := h.exists_eq; rfl

theorem SameButBuffers.raiseBusFault {s s' : State} (h : SameButBuffers s s') (k : BusFault) (c : Cur) :
    SameButBuffers (s.raiseBusFault k c) (s'.raiseBusFault k c) := by
  unfold State.raiseBusFault
  split
  · exact (h.withFsm _).withCur _
  · exact (h.withFsm _).finish _ _

/-- The fresh free values of the buffers come from the counter of the bus, which is the same (R150; log 9). -/
theorem SameButBuffers.engineReset {s s' : State} (h : SameButBuffers s s') : SameButBuffers s.engineReset s'.engineReset := by
  obtain ⟨x, y, rfl⟩ := h.exists_eq; rfl

/-- What some reads of the bus leave. -/
theorem SameButBuffers.afterReads {s s' : State} (h : SameButBuffers s s') (b : Bus) (e : List Event) :
    SameButBuffers { s with bus := b, hist := s.hist ++ e } { s' with bus := b, hist := s'.hist ++ e } := by
  obtain ⟨x, y, rfl⟩ := h.exists_eq; rfl

/-! ### The micro-steps -/

/-- Two micro-steps that gave the same, up to the buffers of the state they leave. -/
inductive Micro.Alike : Micro → Micro → Prop
  | go {t t' : State} (h : SameButBuffers t t') : Micro.Alike (.go t) (.go t')
  | wait {t t' : State} (h : SameButBuffers t t') : Micro.Alike (.wait t) (.wait t')
  | bad : Micro.Alike .bad .bad

/-- A continuation that takes states alike to states alike. -/
def KeepsSameButBuffers (f : State → State) : Prop := ∀ t t', SameButBuffers t t' → SameButBuffers (f t) (f t')

theorem awaitAndCheck_alike {exp : Byte} {kind : BusFault} {c : Cur} {f : State → State} {s s' : State} (hf : KeepsSameButBuffers f)
    (h : SameButBuffers s s') : (awaitAndCheck exp kind c f s).Alike (awaitAndCheck exp kind c f s') := by
  have hbus := h.bus_eq
  rcases s.bus.busy_or_answers with ⟨x, b, hb⟩ | ⟨x, v, b, hb⟩
  · rw [awaitAndCheck_busy hb, awaitAndCheck_busy (hbus ▸ hb)]
    exact .wait (h.afterReads b _)
  · by_cases hv : statusCode v = exp
    · rw [awaitAndCheck_pass hb hv, awaitAndCheck_pass (hbus ▸ hb) hv]
      exact .go (hf _ _ (h.afterReads b _))
    · rw [awaitAndCheck_fail hb hv, awaitAndCheck_fail (hbus ▸ hb) hv,
        show s'.cfg.status = s.cfg.status from congrArg Config.status h.cfg_eq]
      exact .go ((h.afterReads b [.rd .cr x, .rd .sr v]).raiseBusFault _ c)

theorem initMicro_alike (c : Cur) {s s' : State} (h : SameButBuffers s s') : (initMicro c s).Alike (initMicro c s') := by
  unfold initMicro
  split
  · exact .go (h.configureBitRate.goTo c 2)
  · exact .go (h.configured.finish none 0)
  · exact .bad

theorem startPhase_alike (addr : Addr) (dir : Direction) (seq : Nat) (c : Cur) {f : State → State} {s s' : State}
    (hf : KeepsSameButBuffers f) (h : SameButBuffers s s') :
    (startPhase addr dir seq c f s).Alike (startPhase addr dir seq c f s') := by
  unfold startPhase
  rw [h.cfg_eq]
  split
  · exact .go ((h.assertWord _).goTo c 2)
  · exact awaitAndCheck_alike (fun _ _ ht => (ht.withFsm _).goTo c 3) h
  · exact .go ((h.writeData _).goTo c 4)
  · exact .go ((h.assertWord _).goTo c 5)
  · exact awaitAndCheck_alike (fun _ _ ht => hf _ _ (ht.withFsm _)) h
  · exact .bad

theorem writePhase_alike (data : Byte) (base seq : Nat) (c : Cur) {f : State → State} {s s' : State}
    (hf : KeepsSameButBuffers f) (h : SameButBuffers s s') :
    (writePhase data base seq c f s).Alike (writePhase data base seq c f s') := by
  unfold writePhase
  rw [h.cfg_eq]
  split
  · exact .go (((h.withFsm _).writeData _).goTo c _)
  · exact .go ((h.assertWord _).goTo c _)
  · exact awaitAndCheck_alike hf h
  · exact .bad

/-- A read phase goes on with `RXB` just written, so its continuation may use the content of `RXB` (R84). -/
theorem readPhase_alike (base seq : Nat) (c : Cur) {f : State → State} {s s' : State}
    (hf : ∀ t t', SameButBuffers t t' → t'.rxb = t.rxb → SameButBuffers (f t) (f t')) (h : SameButBuffers s s') :
    (readPhase base seq c f s).Alike (readPhase base seq c f s') := by
  unfold readPhase
  rw [h.cfg_eq]
  split
  · exact .go (((h.withFsm _).writeData _).goTo c _)
  · exact .go ((h.assertWord _).goTo c _)
  · exact awaitAndCheck_alike (fun _ _ ht => ht.goTo c _) h
  · exact .go (hf _ _ h.readData.1 h.readData.2)
  · exact .bad

theorem stopMicro_alike (c : Cur) {s s' : State} (h : SameButBuffers s s') : (stopMicro c s).Alike (stopMicro c s') := by
  unfold stopMicro
  split
  · exact .go (h.stopBody.finish none 0)
  · exact .bad

theorem writeTransactionMicro_alike (addr : Addr) (data : Byte) (c : Cur) {s s' : State} (h : SameButBuffers s s') :
    (writeTransactionMicro addr data c s).Alike (writeTransactionMicro addr data c s') := by
  unfold writeTransactionMicro
  split
  · exact writePhase_alike _ _ _ c (fun _ _ ht => ht.goTo c 9) h
  · exact writePhase_alike _ _ _ c (fun _ _ ht => ht.goTo c 9) h
  · exact writePhase_alike _ _ _ c (fun _ _ ht => ht.goTo c 9) h
  · exact .go (h.stopBody.finish _ _)
  · exact startPhase_alike _ _ _ c (fun _ _ ht => ht.goTo c 6) h

theorem readTransactionMicro_alike (addr : Addr) (c : Cur) {s s' : State} (h : SameButBuffers s s') :
    (readTransactionMicro addr c s).Alike (readTransactionMicro addr c s') := by
  unfold readTransactionMicro
  split
  · exact readPhase_alike _ _ c (fun _ _ ht _ => ht) h
  · exact readPhase_alike _ _ c (fun _ _ ht _ => ht) h
  · exact readPhase_alike _ _ c (fun _ _ ht _ => ht) h
  · exact readPhase_alike _ _ c (fun t t' ht hr => by simpa only [hr] using ht.withCur _) h
  · exact .go (h.stopBody.finish _ _)
  · exact startPhase_alike _ _ _ c (fun _ _ ht => ht.goTo c 6) h

/-- No micro-step depends on what `TXB` and `RXB` held before it. -/
theorem microStep_alike (c : Cur) {s s' : State} (h : SameButBuffers s s') : (microStep c s).Alike (microStep c s') := by
  unfold microStep
  split
  · exact initMicro_alike c h
  · exact startPhase_alike _ _ _ c (fun _ _ ht => ht.finish none 0) h
  · exact writePhase_alike _ _ _ c (fun _ _ ht => ht.finish none 0) h
  · exact readPhase_alike _ _ c (fun t t' ht hr => by simpa only [hr] using ht.finish none _) h
  · exact stopMicro_alike c h
  · exact writeTransactionMicro_alike _ _ c h
  · exact readTransactionMicro_alike _ c h
  all_goals exact .bad

/-! ### Commands, words and steps -/

/-- Two outcomes alike are next states alike, or one and the same stop. -/
theorem AlikeButBuffers.cases {o o' : Host.Outcome State Fault Refusal} (h : AlikeButBuffers o o') :
    (∃ t t', o = .next t ∧ o' = .next t' ∧ SameButBuffers t t') ∨ (∃ r, o = .fault r ∧ o' = .fault r) ∨
      (∃ r, o = .refused r ∧ o' = .refused r) := by
  cases o with
  | next t =>
    cases o' with
    | next t' => exact .inl ⟨t, t', rfl, rfl, h⟩
    | fault r' => exact h.elim
    | refused r' => exact h.elim
  | fault r =>
    cases o' with
    | next t' => exact h.elim
    | fault r' => exact .inr (.inl ⟨r, rfl, congrArg _ (Eq.symm h)⟩)
    | refused r' => exact h.elim
  | refused r =>
    cases o' with
    | next t' => exact h.elim
    | fault r' => exact h.elim
    | refused r' => exact .inr (.inr ⟨r, rfl, congrArg _ (Eq.symm h)⟩)

theorem runToWait_alike (n : Nat) {s s' : State} (h : SameButBuffers s s') : AlikeButBuffers (runToWait n s) (runToWait n s') := by
  induction n generalizing s s' with
  | zero => exact h
  | succ n ih =>
    unfold runToWait
    rw [h.cur_eq]
    cases s.cur with
    | none => exact h
    | some c =>
      dsimp only
      match microStep c s, microStep c s', microStep_alike c h with
      | _, _, .go ht => exact ih ht
      | _, _, .wait ht => exact ht
      | _, _, .bad => exact rfl

theorem runFor_alike (n : Nat) {s s' : State} (h : SameButBuffers s s') : AlikeButBuffers (runFor n s) (runFor n s') := by
  induction n generalizing s s' with
  | zero => exact h
  | succ n ih =>
    unfold runFor
    rw [h.cur_eq]
    cases s.cur with
    | none => exact h
    | some c =>
      dsimp only
      match microStep c s, microStep c s', microStep_alike c h with
      | _, _, .go ht => exact ih ht
      | _, _, .wait ht => exact ih ht
      | _, _, .bad => exact rfl

/-- Admission looks at `CUR`, `INITD` and `FSM` alone (R97). -/
theorem accept_alike (i : Instr) {s s' : State} (h : SameButBuffers s s') : AlikeButBuffers (accept i s) (accept i s') := by
  obtain ⟨x, y, rfl⟩ := h.exists_eq
  unfold accept
  dsimp only
  split
  · exact rfl
  split
  · exact rfl
  split
  · exact rfl
  · exact rfl

theorem resume_alike {s s' : State} (h : SameButBuffers s s') : AlikeButBuffers (resume s) (resume s') := runToWait_alike microSteps h

theorem issue_alike (i : Instr) {s s' : State} (h : SameButBuffers s s') : AlikeButBuffers (issue i s) (issue i s') := by
  unfold issue
  obtain ⟨t, t', e, e', ht⟩ | ⟨r, e, e'⟩ | ⟨r, e, e'⟩ := (accept_alike i h).cases <;> rw [e, e']
  · exact resume_alike ht
  · exact rfl
  · exact rfl

theorem resetAfter_alike (k : Nat) {s s' : State} (h : SameButBuffers s s') : AlikeButBuffers (resetAfter k s) (resetAfter k s') := by
  unfold resetAfter
  obtain ⟨t, t', e, e', ht⟩ | ⟨r, e, e'⟩ | ⟨r, e, e'⟩ := (runFor_alike k h).cases <;> rw [e, e']
  · exact ht.engineReset
  · exact rfl
  · exact rfl

theorem issueThenReset_alike (i : Instr) (k : Nat) {s s' : State} (h : SameButBuffers s s') :
    AlikeButBuffers (issueThenReset i k s) (issueThenReset i k s') := by
  unfold issueThenReset
  obtain ⟨t, t', e, e', ht⟩ | ⟨r, e, e'⟩ | ⟨r, e, e'⟩ := (accept_alike i h).cases <;> rw [e, e']
  · exact resetAfter_alike k ht
  · exact rfl
  · exact rfl

theorem exec_alike (i : Instr) {s s' : State} (h : SameButBuffers s s') : AlikeButBuffers (exec i s) (exec i s') := by
  cases hi : i.isCommand with
  | true =>
    rw [exec_eq_issue hi, exec_eq_issue hi]
    exact issue_alike i h
  | false =>
    cases i with
    | cwStart => exact h.assertWord .start
    | cwClock => exact h.assertWord .clock
    | cwStop => exact h.assertWord .stop
    | _ => cases hi

theorem runWord_alike (p : PortWord) {s s' : State} (h : SameButBuffers s s') : AlikeButBuffers (runWord p s) (runWord p s') := by
  unfold runWord
  cases decode p with
  | ok i => exact exec_alike i h
  | error why => exact rfl

theorem runWordThenReset_alike (w : CommandWord) (k : Nat) {s s' : State} (h : SameButBuffers s s') :
    AlikeButBuffers (runWordThenReset w k s) (runWordThenReset w k s') := by
  unfold runWordThenReset
  cases decodeCommand w with
  | ok i => exact issueThenReset_alike i k h
  | error why => exact rfl

/-- A choice on one condition, in two machines alike. -/
theorem AlikeButBuffers.ite {p : Prop} [Decidable p] {a a' b b' : Host.Outcome State Fault Refusal} (ha : AlikeButBuffers a a')
    (hb : AlikeButBuffers b b') : AlikeButBuffers (if p then a else b) (if p then a' else b') := by
  split
  · exact ha
  · exact hb

theorem takeInput_alike (i : Input) (rest : List Input) {s s' : State} (h : SameButBuffers s s') :
    AlikeButBuffers (takeInput i rest s) (takeInput i rest s') := by
  have hr : SameButBuffers (s.withInputs rest) (s'.withInputs rest) := h.withInputs rest
  unfold takeInput
  rw [h.cur_eq, h.reportsFault_eq]
  cases i with
  | issue w => exact .ite (resume_alike h) (runWord_alike _ hr)
  | issueUnlessFault w => exact .ite (resume_alike h) (.ite hr (runWord_alike _ hr))
  | issueNow w => exact runWord_alike _ hr
  | control w => exact .ite rfl (runWord_alike _ hr)
  | reset k => exact resetAfter_alike k hr
  | issueThenReset w k => exact .ite (resume_alike h) (runWordThenReset_alike w k hr)

/-- Settles O47: the buffers are written before they are used by every micro-step, and by nothing else. -/
theorem staleBuffersUnobservable : Obligations.StaleBuffersUnobservable := by
  intro s s' h
  unfold step
  rw [h.inputs_eq]
  cases s.inputs with
  | nil => exact resume_alike h
  | cons i rest => exact takeInput_alike i rest h

end Sys2Proof.Machine
end

section
/-! PROOFS. `INITD` and the configuration under a step (R14, R18), from the frame of a command. -/

namespace Sys2Proof.Machine

/-- Settles O38: what runs a command or takes an input keeps both, by the frame of a command; only the two cases of a step with a reset go
outside it. -/
theorem configFixedInitdSticky : Obligations.ConfigFixedInitdSticky := by
  intro s t h
  have framed : ∀ u, u.cfg = s.cfg → u.initd = s.initd → Frame u t → t.cfg = s.cfg ∧ (s.initd = true → t.initd = false →
      (∃ k rest, s.inputs = .reset k :: rest) ∨ (∃ w k rest, s.inputs = .issueThenReset w k :: rest)) := by
    intro u hcfg hinitd hf
    refine ⟨hf.cfg.trans hcfg, fun hset hclear => ?_⟩
    simp [hf.initd (hinitd.trans hset)] at hclear
  rcases step_cases h with ⟨-, hr, -⟩ | ⟨-, -, rfl⟩ | ⟨w, rest, -, -, rfl⟩ | ⟨i, w, rest, -, -, he⟩ | ⟨i, w, rest, -, -, -, he⟩ |
    ⟨k, rest, u, hi, hu, rfl⟩ | ⟨i, w, k, rest, u, v, -, hi, -, hv, hu, rfl⟩
  · exact framed s rfl rfl (frame_runToWait hr)
  · exact framed t rfl rfl (Frame.refl t)
  · exact framed (s.withInputs rest) rfl rfl (Frame.refl _)
  · exact framed (s.withInputs rest) rfl rfl (frame_exec he)
  · exact framed (s.withInputs rest) rfl rfl (frame_exec he)
  · exact ⟨(frame_runFor hu).cfg, fun _ _ => .inl ⟨k, rest, hi⟩⟩
  · obtain ⟨-, rfl⟩ := accept_next hv
    exact ⟨(frame_runFor hu).cfg, fun _ _ => .inr ⟨w, k, rest, hi⟩⟩

end Sys2Proof.Machine
end

section
/-! SUPPORT. A word that decodes to a command is that command's encoding (R63). -/

namespace Sys2Proof

/-- Only the row's own instruction comes out of its test, and only for a word of the row (R63). -/
theorem ifMatches_eq_ok {r : Row} {w : CommandWord} {i j : Instr} : ifMatches r w i = .ok j ↔ r.matches w = true ∧ i = j := by
  unfold ifMatches
  split <;> simp [*]

/-- Two words of one row that agree in the bits the row leaves free are equal (R51). -/
theorem Row.eq_of_matches {r : Row} {w v : CommandWord} (hw : r.matches w = true) (hv : r.matches v = true)
    (hfree : ∀ k < 20, r.mask.getLsbD k = false → w.getLsbD k = v.getLsbD k) : w = v := by
  rw [Row.matches, beq_iff_eq] at hw hv
  apply BitVec.eq_of_getLsbD_eq
  intro k hk
  cases hm : r.mask.getLsbD k with
  | false => exact hfree k hk hm
  | true => simpa [hm] using congrArg (·.getLsbD k) (hw.trans hv.symm)

/-- The word that encodes a command has its row's fixed bits. -/
theorem matches_of_encode {i : Instr} {r : Row} {v : CommandWord} (h : Laws.EncodesItsRow.Statement i) (hr : Laws.rowOf i = some r)
    (hv : encode i = .command v) : r.matches v = true := by
  simpa [Laws.EncodesItsRow.Statement, hr, hv] using h

theorem bit_dirField (w : CommandWord) : (dirField w).bit[0] = w[8] := by
  unfold dirField
  cases h : w.getLsbD 8 <;> exact h.symm

/-- A word of a row is made of the row's fixed bits and the operand fields it carries (R59, R63). -/
theorem encodeFields_eq_of_matches {r : Row} {a : Addr} {d : Direction} {b : Byte} {w : CommandWord}
    (hv : r.matches (encodeFields r.mtch a d b) = true) (hw : r.matches w = true)
    (hfree : ∀ k < 20, r.mask.getLsbD k = false →
      (r.mtch.getLsbD k || (decide (9 ≤ k) && a.getLsbD (k - 9)) || (decide (8 ≤ k) && d.bit.getLsbD (k - 8)) || b.getLsbD k) =
        w.getLsbD k) :
    PortWord.command (encodeFields r.mtch a d b) = .command w := by
  rw [Row.eq_of_matches hv hw fun k hk hm => (Laws.getLsbD_encodeFields r.mtch a d b hk).trans (hfree k hk hm)]

/-- A command word that decodes is the encoding of what it decodes to (R63). -/
theorem encode_of_decodeCommand {w : CommandWord} {i : Instr} (h : decodeCommand w = .ok i) : encode i = .command w := by
  unfold decodeCommand at h
  split at h
  case h_8 => cases h
  all_goals
    obtain ⟨hw, rfl⟩ := ifMatches_eq_ok.1 h
  · refine encodeFields_eq_of_matches (matches_of_encode Laws.EncodesItsRow.init rfl rfl) hw fun k hk => ?_
    interval_cases k <;> simp [initRow]
  · refine encodeFields_eq_of_matches (matches_of_encode (Laws.EncodesItsRow.start _ _) rfl rfl) hw fun k hk => ?_
    interval_cases k <;> simp [startRow, addrField, bit_dirField]
  · refine encodeFields_eq_of_matches (matches_of_encode (Laws.EncodesItsRow.writeByte _) rfl rfl) hw fun k hk => ?_
    interval_cases k <;> simp [writeByteRow, dataField]
  · refine encodeFields_eq_of_matches (matches_of_encode Laws.EncodesItsRow.readByte rfl rfl) hw fun k hk => ?_
    interval_cases k <;> simp [readByteRow]
  · refine encodeFields_eq_of_matches (matches_of_encode Laws.EncodesItsRow.stop rfl rfl) hw fun k hk => ?_
    interval_cases k <;> simp [stopRow]
  · refine encodeFields_eq_of_matches (matches_of_encode (Laws.EncodesItsRow.writeTransaction _ _) rfl rfl) hw fun k hk => ?_
    interval_cases k <;> simp [writeTransactionRow, addrField, dataField]
  · refine encodeFields_eq_of_matches (matches_of_encode (Laws.EncodesItsRow.readTransaction _) rfl rfl) hw fun k hk => ?_
    interval_cases k <;> simp [readTransactionRow, addrField]

end Sys2Proof
end

section
/-! PROOFS. Who writes `RXB` (R13, R84, R91): the micro-steps that keep it, the two that read `DR` into it, and what a command then returns. -/

namespace Sys2Proof.Machine

/-- A command that returns a received byte (R84, R91). -/
def ReadsByte (i : Instr) : Prop := i = .readByte ∨ ∃ a, i = .readTransaction a

/-- `RXB` is kept, and the command has returned or has gone on to a later micro-step; a new pending fault has led to the closing STOP (R139). -/
def KeepsRxb (c : Cur) (s t : State) : Prop :=
  t.rxb = s.rxb ∧
    ∀ c', t.cur = some c' → c'.cmd = c.cmd ∧ c.seq < c'.seq ∧ (c'.flt = c.flt ∨ closingStop c.cmd = some c'.seq)

/-- `RXB` is written, and the command returns OK with it (READ_BYTE), or goes on to its closing STOP with it as the byte to return
(READ_TRANSACTION). -/
def WritesRxb (c : Cur) (t : State) : Prop :=
  (c.cmd = .readByte ∧ t.cur = none ∧ t.res = some (resultWord none t.rxb)) ∨
    ((∃ a, c.cmd = .readTransaction a) ∧ c.seq = 9 ∧ t.cur = some { c with seq := 10, ret := t.rxb })

/-- Everything a micro-step can do to `RXB`. -/
def Micro.RxbEffect (c : Cur) (s : State) : Micro → Prop
  | .go t => KeepsRxb c s t ∨ WritesRxb c t
  | .wait t => t.rxb = s.rxb
  | .bad => True

/-! ### The micro-steps -/

theorem keepsRxb_of_cur_none {c : Cur} {s t : State} (hr : t.rxb = s.rxb) (hc : t.cur = none) : KeepsRxb c s t :=
  ⟨hr, fun c' h => by cases hc.symm.trans h⟩

theorem keepsRxb_of_goTo {c : Cur} {s t : State} {n : Nat} (hr : t.rxb = s.rxb) (hn : c.seq < n) : KeepsRxb c s (t.goTo c n) :=
  ⟨hr, fun c' h => by cases h; exact ⟨rfl, hn, .inl rfl⟩⟩

/-- The closing STOP comes after every wait (R90, R91). -/
theorem le_of_closingStop {i : Instr} {n : Nat} (h : closingStop i = some n) : 9 ≤ n := by
  cases i <;> simp [closingStop] at h <;> omega

theorem keepsRxb_raiseBusFault {c : Cur} (k : BusFault) (s : State) (hc : c.seq < 9) : KeepsRxb c s (s.raiseBusFault k c) := by
  cases hs : closingStop c.cmd with
  | none =>
    rw [State.raiseBusFault_primitive hs]
    exact keepsRxb_of_cur_none rfl rfl
  | some n =>
    rw [State.raiseBusFault_composite hs]
    refine ⟨rfl, fun c' h => ?_⟩
    cases h
    exact ⟨rfl, hc.trans_le (le_of_closingStop hs), .inr hs⟩

/-- A wait and its check keep `RXB` if what follows a passed check does. -/
theorem awaitAndCheck_rxbEffect {exp : Byte} {kind : BusFault} {c : Cur} {f : State → State} {s : State} (hf : ∀ t, KeepsRxb c t (f t))
    (hc : c.seq < 9) : (awaitAndCheck exp kind c f s).RxbEffect c s := by
  obtain ⟨x, b, -, hm⟩ | ⟨x, v, b, -, -, hm⟩ | ⟨x, v, b, -, -, hm⟩ := awaitAndCheck_cases (rfl : awaitAndCheck exp kind c f s = _) <;>
    rw [hm]
  · exact rfl
  · exact .inl (hf _)
  · exact .inl (keepsRxb_raiseBusFault _ _ hc)

theorem startPhase_rxbEffect {addr : Addr} {dir : Direction} {c : Cur} {f : State → State} {s : State}
    (hf : c.seq = 5 → ∀ t, KeepsRxb c t (f t)) : (startPhase addr dir c.seq c f s).RxbEffect c s := by
  unfold startPhase
  split <;> rename_i hc
  · exact .inl (keepsRxb_of_goTo rfl (by omega))
  · exact awaitAndCheck_rxbEffect (fun t => keepsRxb_of_goTo rfl (by omega)) (by omega)
  · exact .inl (keepsRxb_of_goTo rfl (by omega))
  · exact .inl (keepsRxb_of_goTo rfl (by omega))
  · exact awaitAndCheck_rxbEffect (fun t => hf hc (t.withFsm .addressSent)) (by omega)
  · trivial

theorem writePhase_rxbEffect {d : Byte} {base seq : Nat} {c : Cur} {f : State → State} {s : State} (hc : c.seq = base + seq) (hb : base ≤ 5)
    (hf : seq = 3 → ∀ t, KeepsRxb c t (f t)) : (writePhase d base seq c f s).RxbEffect c s := by
  unfold writePhase
  split
  · exact .inl (keepsRxb_of_goTo rfl (by omega))
  · exact .inl (keepsRxb_of_goTo rfl (by omega))
  · exact awaitAndCheck_rxbEffect (hf rfl) (by omega)
  · trivial

theorem readPhase_rxbEffect {base seq : Nat} {c : Cur} {f : State → State} {s : State} (hc : c.seq = base + seq) (hb : base ≤ 5)
    (hf : seq = 4 → WritesRxb c (f s.readData)) : (readPhase base seq c f s).RxbEffect c s := by
  unfold readPhase
  split
  · exact .inl (keepsRxb_of_goTo rfl (by omega))
  · exact .inl (keepsRxb_of_goTo rfl (by omega))
  · exact awaitAndCheck_rxbEffect (fun t => keepsRxb_of_goTo rfl (by omega)) (by omega)
  · exact .inr (hf rfl)
  · trivial

theorem initMicro_rxbEffect (c : Cur) (s : State) : (initMicro c s).RxbEffect c s := by
  unfold initMicro
  split <;> rename_i hc
  · exact .inl (keepsRxb_of_goTo rfl (by omega))
  · exact .inl (keepsRxb_of_cur_none rfl rfl)
  · trivial

theorem stopMicro_rxbEffect (c : Cur) (s : State) : (stopMicro c s).RxbEffect c s := by
  unfold stopMicro
  split
  · exact .inl (keepsRxb_of_cur_none rfl rfl)
  · trivial

theorem writeTransactionMicro_rxbEffect (addr : Addr) (data : Byte) (c : Cur) (s : State) :
    (writeTransactionMicro addr data c s).RxbEffect c s := by
  unfold writeTransactionMicro
  split <;> rename_i hc
  · exact writePhase_rxbEffect hc (by omega) (by omega)
  · exact writePhase_rxbEffect hc (by omega) (by omega)
  · exact writePhase_rxbEffect hc (by omega) fun _ t => keepsRxb_of_goTo rfl (by omega)
  · exact .inl (keepsRxb_of_cur_none rfl rfl)
  · exact startPhase_rxbEffect fun h t => keepsRxb_of_goTo rfl (by omega)

theorem readTransactionMicro_rxbEffect {addr : Addr} {c : Cur} (h : c.cmd = .readTransaction addr) (s : State) :
    (readTransactionMicro addr c s).RxbEffect c s := by
  unfold readTransactionMicro
  split <;> rename_i hc
  · exact readPhase_rxbEffect hc (by omega) (by omega)
  · exact readPhase_rxbEffect hc (by omega) (by omega)
  · exact readPhase_rxbEffect hc (by omega) (by omega)
  · exact readPhase_rxbEffect hc (by omega) fun _ => .inr ⟨⟨addr, h⟩, hc, rfl⟩
  · exact .inl (keepsRxb_of_cur_none rfl rfl)
  · exact startPhase_rxbEffect fun h t => keepsRxb_of_goTo rfl (by omega)

/-- A micro-step writes `RXB` only in a read of `DR` (R77). -/
theorem microStep_rxbEffect (c : Cur) (s : State) : (microStep c s).RxbEffect c s := by
  unfold microStep
  split <;> rename_i h
  · exact initMicro_rxbEffect c s
  · exact startPhase_rxbEffect fun _ t => keepsRxb_of_cur_none rfl rfl
  · exact writePhase_rxbEffect (Nat.zero_add _).symm (by omega) fun _ t => keepsRxb_of_cur_none rfl rfl
  · exact readPhase_rxbEffect (Nat.zero_add _).symm (by omega) fun _ => .inl ⟨h, rfl, rfl⟩
  · exact stopMicro_rxbEffect c s
  · exact writeTransactionMicro_rxbEffect _ _ c s
  · exact readTransactionMicro_rxbEffect h s
  all_goals trivial

/-! ### A run to the next wait, a command, a step -/

/-- A fault is pending at the closing STOP alone (R139). -/
def FaultOnlyAtStop (c : Cur) : Prop := c.flt = none ∨ ∃ n, closingStop c.cmd = some n ∧ n ≤ c.seq

theorem KeepsRxb.faultOnlyAtStop {c c' : Cur} {s t : State} (h : KeepsRxb c s t) (hc : t.cur = some c') (hf : FaultOnlyAtStop c) :
    FaultOnlyAtStop c' := by
  obtain ⟨hcmd, hlt, hflt⟩ := h.2 c' hc
  rcases hflt with hflt | hstop
  · rcases hf with hf | ⟨n, hn, hle⟩
    · exact .inl (hflt.trans hf)
    · exact .inr ⟨n, hcmd ▸ hn, hle.trans hlt.le⟩
  · exact .inr ⟨_, hcmd ▸ hstop, le_rfl⟩

/-- The closing STOP of READ_TRANSACTION returns the byte read, if no fault is pending (R91). -/
theorem runToWait_readTransaction_stop {n : Nat} {s t : State} {c : Cur} {a : Addr} (hc : s.cur = some c)
    (hcmd : c.cmd = .readTransaction a) (hseq : c.seq = 10) (h : runToWait (n + 1) s = .next t) : t = s.stopBody.finish c.flt c.ret := by
  have hm : microStep c s = .go (s.stopBody.finish c.flt c.ret) := by simp [microStep, hcmd, readTransactionMicro, hseq]
  rw [runToWait_go hc hm, runToWait_none rfl] at h
  cases h
  rfl

/-- A command with enough micro-steps before it to end has kept `RXB`, or has returned OK with it. -/
theorem runToWait_keeps_or_returns_rxb {n : Nat} {s t : State} {c : Cur} (hc : s.cur = some c) (hn : microSteps < n + c.seq) (hf : FaultOnlyAtStop c)
    (h : runToWait n s = .next t) :
    t.rxb = s.rxb ∨ (ReadsByte c.cmd ∧ t.cur = none ∧ t.res = some (resultWord none t.rxb)) := by
  induction n generalizing s c with
  | zero => cases h; exact .inl rfl
  | succ n ih =>
    have hm := microStep_rxbEffect c s
    cases he : microStep c s with
    | bad => simp [runToWait, hc, he] at h
    | wait u =>
      rw [runToWait_wait hc he] at h
      cases h
      rw [he] at hm
      exact .inl hm
    | go u =>
      rw [runToWait_go hc he] at h
      rw [he] at hm
      rcases hm with hk | ⟨hcmd, hcur, hres⟩ | ⟨⟨a, hcmd⟩, hseq, hcur⟩
      · cases hu : u.cur with
        | none =>
          rw [runToWait_none hu] at h
          cases h
          exact .inl hk.1
        | some c' =>
          obtain ⟨hcmd, hlt, -⟩ := hk.2 c' hu
          rw [← hk.1, ← hcmd]
          exact ih hu (by omega) (hk.faultOnlyAtStop hu hf) h
      · rw [runToWait_none hcur] at h
        cases h
        exact .inr ⟨.inl hcmd, hcur, hres⟩
      · have hflt : c.flt = none := hf.resolve_right fun ⟨m, hstop, hle⟩ => by
          rw [hcmd] at hstop
          cases hstop
          omega
        obtain ⟨m, rfl⟩ : ∃ m, n = m + 1 := ⟨n - 1, by unfold microSteps at hn; omega⟩
        cases runToWait_readTransaction_stop (a := a) hcur hcmd rfl h
        exact .inr ⟨.inr ⟨a, hcmd⟩, rfl, by simp [hflt]⟩

/-- A command that is issued keeps `RXB`, or has returned OK with it; a control word keeps it. -/
theorem exec_keeps_or_returns_rxb {i : Instr} {s t : State} (h : exec i s = .next t) :
    t.rxb = s.rxb ∨ (ReadsByte i ∧ t.cur = none ∧ t.res = some (resultWord none t.rxb)) := by
  cases hi : i.isCommand with
  | true =>
    rw [exec_of_admitted hi (admitted_of_next hi h)] at h
    exact runToWait_keeps_or_returns_rxb (s := { s with cur := some ⟨i, 1, none, 0x00⟩, res := none }) rfl (Nat.lt_succ_self _) (.inl rfl) h
  | false =>
    left
    cases i with
    | cwStart => cases h; rfl
    | cwClock => cases h; rfl
    | cwStop => cases h; rfl
    | _ => cases hi

/-- No command waits before its first micro-step. -/
theorem waitsAt_pos {i : Instr} {n : Nat} {f : Fsm} (h : waitsAt i n f) : 0 < n := by
  cases i <;> simp only [waitsAt] at h <;> omega

/-- A command that goes on after a wait keeps `RXB`, or has returned OK with it. -/
theorem resume_keeps_or_returns_rxb {s t : State} {c : Cur} (hinv : EngineInv s) (hc : s.cur = some c) (h : resume s = .next t) :
    t.rxb = s.rxb ∨ (ReadsByte c.cmd ∧ t.cur = none ∧ t.res = some (resultWord none t.rxb)) := by
  obtain ⟨hwait, hflt, -⟩ := hinv.inFlight c hc
  exact runToWait_keeps_or_returns_rxb hc (Nat.lt_add_of_pos_right (waitsAt_pos hwait)) (.inl hflt) h

/-- Settles O45: of the cases of a step, by what each can do to `RXB`. -/
theorem receiveBufferWrittenOnlyByReads : Obligations.ReceiveBufferWrittenOnlyByReads := by
  refine ⟨fun i s t h hne => (exec_keeps_or_returns_rxb h).resolve_left hne, fun s t hinv h hne => ?_⟩
  rcases step_cases h with ⟨hc, hr, -⟩ | ⟨-, -, rfl⟩ | ⟨w, rest, -, -, rfl⟩ | ⟨i, w, rest, hi, hd, he⟩ | ⟨i, w, rest, -, -, hd, he⟩ |
    ⟨k, rest, u, hi, -, -⟩ | ⟨i, w, k, rest, u, v, hc, hi, -, -, -, -⟩
  · obtain ⟨c, hc⟩ := Option.isSome_iff_exists.1 hc
    obtain ⟨hread, hcur, hres⟩ := (resume_keeps_or_returns_rxb hinv hc hr).resolve_left hne
    exact .inr (.inr ⟨hcur, hres, c.cmd, hread, .inl ⟨c, hc, rfl⟩⟩)
  · exact (hne rfl).elim
  · exact (hne rfl).elim
  · obtain ⟨hread, hcur, hres⟩ := (exec_keeps_or_returns_rxb he).resolve_left hne
    have hidle : s.cur = none := (admitted_of_next (isCommand_of_decodeCommand hd) he).1
    exact .inr (.inr ⟨hcur, hres, i, hread, .inr ⟨hidle, w, rest, encode_of_decodeCommand hd, hi⟩⟩)
  · obtain ⟨hread, -, -⟩ := (exec_keeps_or_returns_rxb he).resolve_left hne
    rcases cases_of_decodeControl hd with rfl | rfl | rfl <;> simp [ReadsByte] at hread
  · exact .inl ⟨k, rest, hi⟩
  · exact .inr (.inl ⟨hc, w, k, rest, hi⟩)

end Sys2Proof.Machine
end

section
/-! PROOFS. The register port: what a read and a write do (R33, R34, R44, R113), and which accesses a step can add to the history (R53, R70). -/

namespace Sys2Proof.Machine

/-! ### A read, a write -/

@[simp] theorem ControllerRegs.get_set_same (r : Reg) (v : Byte) (ctl : ControllerRegs) : (ctl.set r v).get r = v := by
  cases r <;> rfl

/-- `SR` is the one register RefBus does not store a write to (R117; log 19). -/
theorem refBusStore_eq_set {r : Reg} (h : r ≠ .sr) (v : Byte) (ctl : ControllerRegs) : refBusStore r v ctl = ctl.set r v := by
  cases r with
  | sr => exact (h rfl).elim
  | _ => rfl

theorem Bus.write_ctl_oracle {b : Bus} {l : List Byte} (h : b.env = .oracle l) (r : Reg) (v : Byte) :
    (b.write r v).ctl = b.ctl.set r v := by
  simp only [Bus.write, h]

theorem Bus.write_ctl_refBus {b : Bus} {cfg : RefBusConfig} {h : RefBusState} (hb : b.isRefBus cfg h) (r : Reg) (v : Byte) :
    (b.write r v).ctl = refBusStore r v b.ctl := by
  unfold Bus.isRefBus at hb
  simp only [Bus.write, hb]

/-- A byte written over the port is in the register's field afterwards (log 14), but for a write of `SR` under RefBus (log 19). -/
theorem Bus.write_ctl_get {b : Bus} {r : Reg} (v : Byte) (h : r ≠ .sr ∨ ∃ l, b.env = .oracle l) : (b.write r v).ctl.get r = v := by
  cases hb : b.env with
  | oracle l => rw [Bus.write_ctl_oracle hb, ControllerRegs.get_set_same]
  | refBus cfg st =>
    have hr : r ≠ .sr := h.resolve_right (by simp [hb])
    rw [Bus.write_ctl_refBus hb, refBusStore_eq_set hr, ControllerRegs.get_set_same]

/-- Settles O10: the frames and events hold by definition, the oracle's answer and the registers' content by the environment's case. -/
theorem portRecordsAccesses : Obligations.PortRecordsAccesses := by
  refine fun r s => ⟨rfl, fun v rest h => ?_, fun v => ⟨rfl, Bus.write_ctl_get v, ?_⟩⟩
  · have hr : s.bus.read r = (v, { s.bus with ctl := s.bus.ctl.set r v, env := .oracle rest }) := by simp only [Bus.read, h]
    simp [State.memRead_eq, hr]
  · rintro rfl ⟨cfg, st, hb⟩
    exact Bus.write_ctl_refBus hb .sr v

/-! ### The accesses of a step -/

/-- A step takes inputs from the head of the list, and is then framed or is a reset. -/
theorem step_framed_or_reset {s t : State} (h : step s = .next t) :
    ∃ rest, rest <:+ s.inputs ∧ (Frame (s.withInputs rest) t ∨ AfterReset s t rest) := by
  have taken : ∀ {i rest}, s.inputs = i :: rest → rest <:+ s.inputs := fun hi => hi ▸ List.suffix_cons _ _
  rcases step_cases h with ⟨-, hr, -⟩ | ⟨-, -, rfl⟩ | ⟨w, rest, -, hi, rfl⟩ | ⟨i, w, rest, hi, -, he⟩ | ⟨i, w, rest, -, hi, -, he⟩ |
    ⟨k, rest, u, hi, hu, rfl⟩ | ⟨i, w, k, rest, u, v, -, hi, -, hv, hu, rfl⟩
  · exact ⟨s.inputs, List.suffix_rfl, .inl (frame_runToWait hr)⟩
  · exact ⟨t.inputs, List.suffix_rfl, .inl (Frame.refl t)⟩
  · exact ⟨rest, taken hi, .inl (Frame.refl _)⟩
  · exact ⟨rest, hi.elim taken (·.elim taken taken), .inl (frame_exec he)⟩
  · exact ⟨rest, taken hi, .inl (frame_exec he)⟩
  · exact ⟨rest, taken hi, .inr ⟨rfl, rfl, rfl, rfl, rfl, (frame_runFor hu).inputs, (frame_runFor hu).cfg⟩⟩
  · obtain ⟨-, rfl⟩ := accept_next hv
    exact ⟨rest, taken hi, .inr ⟨rfl, rfl, rfl, rfl, rfl, (frame_runFor hu).inputs, (frame_runFor hu).cfg⟩⟩

/-- Settles O34: a step adds allowed accesses to the history, or is a reset and leaves none. -/
theorem stepKeepsPortDiscipline : Obligations.StepKeepsPortDiscipline := by
  intro s t hs h
  obtain ⟨rest, -, hf | hr⟩ := step_framed_or_reset h
  · obtain ⟨e, hhist, he⟩ := hf.hist
    rw [hhist, State.withInputs_hist, List.all_append, hs, he, Bool.and_self]
  · rw [hr.hist, List.all_nil]

end Sys2Proof.Machine
end

section
/-! PROOFS. The two orderings inside a phase (R39): `CW_CLOCK` is asserted directly after the byte is staged in `DR`, `SR` is read directly after the
poll that saw the flag. -/

namespace Sys2Proof.Machine

/-! ### The order of a history that grows -/

/-- An event of a history is ordered by the event before it alone. -/
theorem accessOrder_cons (p : Option Event) (e : Event) (l : List Event) :
    accessOrder p (e :: l) = (accessOrder p [e] && accessOrder (some e) l) :=
  congrArg (· && accessOrder (some e) l) (Bool.and_true _).symm

theorem accessOrder_append (p : Option Event) (l l' : List Event) :
    accessOrder p (l ++ l') = (accessOrder p l && accessOrder (l.getLast?.or p) l') := by
  induction l generalizing p with
  | nil => simp [accessOrder]
  | cons e l ih =>
    have hlast : (e :: l).getLast?.or p = l.getLast?.or (some e) := by cases h : l.getLast? <;> simp [List.getLast?_cons, h]
    rw [List.cons_append, accessOrder_cons, accessOrder_cons p e l, ih, hlast, Bool.and_assoc]

/-- An event of which R39 asks nothing, whatever stands before it. -/
def Event.free : Event → Bool
  | .wr .cr w => w != ControlWord.clock.byte
  | .rd .sr _ => false
  | _ => true

theorem accessOrder_of_free {e : Event} (h : e.free = true) (p : Option Event) : accessOrder p [e] = true := by
  unfold accessOrder
  split
  · rfl
  · exact (Bool.and_true _).trans h
  · cases h
  · cases h
  · rfl

theorem accessOrder_snoc_free {h : List Event} {e : Event} (ho : accessOrder none h = true) (he : e.free = true) :
    accessOrder none (h ++ [e]) = true := by
  rw [accessOrder_append, ho, accessOrder_of_free he, Bool.and_self]

/-- `CW_CLOCK` directly after a write of `DR` (R39). -/
theorem accessOrder_snoc_clock {h : List Event} (ho : accessOrder none h = true) (hd : ∃ b, h.getLast? = some (.wr .dr b)) :
    accessOrder none (h ++ [.wr .cr ControlWord.clock.byte]) = true := by
  obtain ⟨b, hb⟩ := hd
  rw [accessOrder_append, ho, hb, Bool.true_and]
  rfl

/-- A poll that sees the flag, with its read of `SR` (R75). -/
theorem accessOrder_append_poll {h : List Event} {c : Byte} (ho : accessOrder none h = true) (hc : completionFlag c = true) (v : Byte) :
    accessOrder none (h ++ [.rd .cr c, .rd .sr v]) = true := by
  rw [accessOrder_append, ho, accessOrder_cons, accessOrder_of_free rfl, Bool.true_and, Bool.true_and]
  exact (Bool.and_true _).trans hc

/-! ### The invariant between micro-steps -/

/-- The micro-steps of a command that assert `CW_CLOCK` (R82, R83, R84, R90, R91). -/
def clockSteps : Instr → List Nat
  | .start _ _ => [4]
  | .writeByte _ | .readByte => [2]
  | .writeTransaction _ _ | .readTransaction _ => [4, 7]
  | .init | .stop | .cwStart | .cwClock | .cwStop => []

/-- R39 between micro-steps: the history is in order, and a command about to assert `CW_CLOCK` has just written `DR`. -/
structure PhaseOrder (s : State) : Prop where
  order : accessOrder none s.hist = true
  staged : ∀ c, s.cur = some c → c.seq ∈ clockSteps c.cmd → ∃ b, s.hist.getLast? = some (.wr .dr b)

/-- A command that does not assert `CW_CLOCK` next needs nothing before it. -/
theorem phaseOrder_of_not_clock {s : State} (ho : accessOrder none s.hist = true) (h : ∀ c, s.cur = some c → c.seq ∉ clockSteps c.cmd) :
    PhaseOrder s :=
  ⟨ho, fun c hc hin => (h c hc hin).elim⟩

theorem phaseOrder_goTo {s : State} {c : Cur} {n : Nat} (hn : n ∉ clockSteps c.cmd) (ho : accessOrder none s.hist = true) :
    PhaseOrder (s.goTo c n) :=
  phaseOrder_of_not_clock ho fun c' hc => by cases hc; exact hn

theorem phaseOrder_of_cur_none {s : State} (hc : s.cur = none) (ho : accessOrder none s.hist = true) : PhaseOrder s :=
  phaseOrder_of_not_clock ho fun c h => by cases hc.symm.trans h

/-- Right after WRITE_DATA any micro-step may follow (R76). -/
theorem phaseOrder_writeData {s : State} (ho : accessOrder none s.hist = true) (b : Byte) (c : Cur) (n : Nat) :
    PhaseOrder ((s.writeData b).goTo c n) :=
  ⟨accessOrder_snoc_free ho rfl, fun _ _ _ => ⟨b, List.getLast?_concat⟩⟩

/-- The closing STOP asserts `CW_STOP`. -/
theorem closingStop_not_clock {i : Instr} {n : Nat} (h : closingStop i = some n) : n ∉ clockSteps i := by
  cases i <;> simp [closingStop] at h <;> simp [clockSteps, ← h]

theorem phaseOrder_raiseBusFault {s : State} (k : BusFault) (c : Cur) (ho : accessOrder none s.hist = true) :
    PhaseOrder (s.raiseBusFault k c) := by
  cases hs : closingStop c.cmd with
  | none =>
    rw [State.raiseBusFault_primitive hs]
    exact phaseOrder_of_cur_none rfl ho
  | some n =>
    rw [State.raiseBusFault_composite hs]
    exact phaseOrder_of_not_clock ho fun c' hc => by cases hc; exact closingStop_not_clock hs

/-! ### The micro-steps -/

section
variable {s : State} {c : Cur} (hp : PhaseOrder s)
include hp

theorem initMicro_keeps_phaseOrder (hcmd : c.cmd = .init) : (initMicro c s).Leaves PhaseOrder := by
  unfold initMicro
  split
  · exact phaseOrder_goTo (by simp [hcmd, clockSteps]) (accessOrder_snoc_free hp.order rfl)
  · exact phaseOrder_of_cur_none rfl (accessOrder_snoc_free hp.order rfl)
  · trivial

/-- The body of STOP, with what returns after it (R85). -/
theorem stopBody_finish_phaseOrder (flt : Option BusFault) (b : Byte) : PhaseOrder (s.stopBody.finish flt b) :=
  phaseOrder_of_cur_none rfl (accessOrder_snoc_free hp.order (by decide))

theorem stopMicro_keeps_phaseOrder : (stopMicro c s).Leaves PhaseOrder := by
  unfold stopMicro
  split
  · exact stopBody_finish_phaseOrder hp none 0
  · trivial

variable (hc : s.cur = some c)
include hc

theorem awaitAndCheck_keeps_phaseOrder {exp : Byte} {kind : BusFault} {f : State → State} (hn : c.seq ∉ clockSteps c.cmd)
    (hf : ∀ t, accessOrder none t.hist = true → PhaseOrder (f t)) : (awaitAndCheck exp kind c f s).Leaves PhaseOrder := by
  obtain ⟨x, b, -, hm⟩ | ⟨x, v, b, ⟨hx, hflag, -⟩, -, hm⟩ | ⟨x, v, b, ⟨hx, hflag, -⟩, -, hm⟩ :=
    awaitAndCheck_cases (rfl : awaitAndCheck exp kind c f s = _) <;> rw [hm]
  · exact phaseOrder_of_not_clock (accessOrder_snoc_free hp.order rfl) fun c' hc' => by cases hc.symm.trans hc'; exact hn
  · exact hf _ (accessOrder_append_poll hp.order hflag v)
  · exact phaseOrder_raiseBusFault _ c (accessOrder_append_poll hp.order hflag v)

theorem clockAsserted_phaseOrder {n : Nat} (hclk : c.seq ∈ clockSteps c.cmd) (hn : n ∉ clockSteps c.cmd) :
    PhaseOrder ((s.assertWord .clock).goTo c n) :=
  phaseOrder_goTo hn (accessOrder_snoc_clock hp.order (hp.staged c hc hclk))

theorem startPhase_keeps_phaseOrder {addr : Addr} {dir : Direction} {f : State → State}
    (hclk : clockSteps c.cmd = [4] ∨ clockSteps c.cmd = [4, 7]) (hf : ∀ t, accessOrder none t.hist = true → PhaseOrder (f t)) :
    (startPhase addr dir c.seq c f s).Leaves PhaseOrder := by
  have hmem : ∀ n < 6, n ∈ clockSteps c.cmd ↔ n = 4 := fun n hn => by rcases hclk with h | h <;> rw [h] <;> simp; omega
  unfold startPhase
  split <;> rename_i hseq
  · exact phaseOrder_goTo (by simp [hmem]) (accessOrder_snoc_free hp.order (by decide))
  · exact awaitAndCheck_keeps_phaseOrder hp hc (by simp [hmem, hseq]) fun t ht => phaseOrder_goTo (by simp [hmem]) ht
  · exact phaseOrder_writeData hp.order _ c 4
  · exact clockAsserted_phaseOrder hp hc (by simp [hmem, hseq]) (by simp [hmem])
  · exact awaitAndCheck_keeps_phaseOrder hp hc (by simp [hmem, hseq]) fun t ht => hf _ ht
  · trivial

theorem writePhase_keeps_phaseOrder {d : Byte} {base seq : Nat} {f : State → State} (hseq : c.seq = base + seq)
    (hclk : base + 2 ∈ clockSteps c.cmd) (hwait : base + 3 ∉ clockSteps c.cmd)
    (hf : seq = 3 → ∀ t, accessOrder none t.hist = true → PhaseOrder (f t)) :
    (writePhase d base seq c f s).Leaves PhaseOrder := by
  unfold writePhase
  split
  · exact phaseOrder_writeData (s := s.withFsm .dataPhase) hp.order _ c _
  · exact clockAsserted_phaseOrder hp hc (hseq ▸ hclk) hwait
  · exact awaitAndCheck_keeps_phaseOrder hp hc (hseq ▸ hwait) (hf rfl)
  · trivial

theorem readPhase_keeps_phaseOrder {base seq : Nat} {f : State → State} (hseq : c.seq = base + seq)
    (hclk : base + 2 ∈ clockSteps c.cmd) (hwait : base + 3 ∉ clockSteps c.cmd) (hread : base + 4 ∉ clockSteps c.cmd)
    (hf : seq = 4 → ∀ t, accessOrder none t.hist = true → PhaseOrder (f t)) :
    (readPhase base seq c f s).Leaves PhaseOrder := by
  unfold readPhase
  split
  · exact phaseOrder_writeData (s := s.withFsm .dataPhase) hp.order _ c _
  · exact clockAsserted_phaseOrder hp hc (hseq ▸ hclk) hwait
  · exact awaitAndCheck_keeps_phaseOrder hp hc (hseq ▸ hwait) fun t ht => phaseOrder_goTo hread ht
  · exact hf rfl _ (accessOrder_snoc_free hp.order rfl)
  · trivial

theorem writeTransactionMicro_keeps_phaseOrder {addr : Addr} {data : Byte} (hcmd : c.cmd = .writeTransaction addr data) :
    (writeTransactionMicro addr data c s).Leaves PhaseOrder := by
  have hclk : clockSteps c.cmd = [4, 7] := by rw [hcmd]; rfl
  unfold writeTransactionMicro
  split <;> rename_i hseq
  · exact writePhase_keeps_phaseOrder hp hc hseq (by simp [hclk]) (by simp [hclk]) (by omega)
  · exact writePhase_keeps_phaseOrder hp hc hseq (by simp [hclk]) (by simp [hclk]) (by omega)
  · exact writePhase_keeps_phaseOrder hp hc hseq (by simp [hclk]) (by simp [hclk]) fun _ t => phaseOrder_goTo (by simp [hclk])
  · exact stopBody_finish_phaseOrder hp _ _
  · exact startPhase_keeps_phaseOrder hp hc (.inr hclk) fun t => phaseOrder_goTo (by simp [hclk])

theorem readTransactionMicro_keeps_phaseOrder {addr : Addr} (hcmd : c.cmd = .readTransaction addr) :
    (readTransactionMicro addr c s).Leaves PhaseOrder := by
  have hclk : clockSteps c.cmd = [4, 7] := by rw [hcmd]; rfl
  unfold readTransactionMicro
  split <;> rename_i hseq
  · exact readPhase_keeps_phaseOrder hp hc hseq (by simp [hclk]) (by simp [hclk]) (by simp [hclk]) (by omega)
  · exact readPhase_keeps_phaseOrder hp hc hseq (by simp [hclk]) (by simp [hclk]) (by simp [hclk]) (by omega)
  · exact readPhase_keeps_phaseOrder hp hc hseq (by simp [hclk]) (by simp [hclk]) (by simp [hclk]) (by omega)
  · exact readPhase_keeps_phaseOrder hp hc hseq (by simp [hclk]) (by simp [hclk]) (by simp [hclk]) fun _ t ht =>
      phaseOrder_of_not_clock ht fun c' hc' => by cases hc'; simp [hclk]
  · exact stopBody_finish_phaseOrder hp _ _
  · exact startPhase_keeps_phaseOrder hp hc (.inr hclk) fun t => phaseOrder_goTo (by simp [hclk])

/-- Every micro-step keeps R39: it stages `DR` before the clock, and reads `SR` only in the poll that saw the flag. -/
theorem microStep_keeps_phaseOrder : (microStep c s).Leaves PhaseOrder := by
  have hfin : ∀ {flt} {b : State → Byte} (t : State), accessOrder none t.hist = true → PhaseOrder (t.finish flt (b t)) :=
    fun _ ht => phaseOrder_of_cur_none rfl ht
  unfold microStep
  split <;> rename_i hcmd
  · exact initMicro_keeps_phaseOrder hp hcmd
  · exact startPhase_keeps_phaseOrder hp hc (.inl (by rw [hcmd]; rfl)) hfin
  · exact writePhase_keeps_phaseOrder hp hc (Nat.zero_add _).symm (by simp [hcmd, clockSteps]) (by simp [hcmd, clockSteps]) fun _ => hfin
  · exact readPhase_keeps_phaseOrder hp hc (Nat.zero_add _).symm (by simp [hcmd, clockSteps]) (by simp [hcmd, clockSteps])
      (by simp [hcmd, clockSteps]) fun _ => hfin
  · exact stopMicro_keeps_phaseOrder hp
  · exact writeTransactionMicro_keeps_phaseOrder hp hc hcmd
  · exact readTransactionMicro_keeps_phaseOrder hp hc hcmd
  all_goals trivial

end

/-! ### A command, a step -/

theorem runToWait_keeps_phaseOrder {n : Nat} {s t : State} (hp : PhaseOrder s) (h : runToWait n s = .next t) : PhaseOrder t :=
  runToWait_keeps (fun _ _ hu hc => microStep_keeps_phaseOrder hu hc) n s t hp h

/-- No command waits where it asserts `CW_CLOCK` (R104). -/
theorem waitsAt_not_clock {i : Instr} {n : Nat} {f : Fsm} (h : waitsAt i n f) : n ∉ clockSteps i := by
  cases i <;> simp only [waitsAt] at h <;> simp [clockSteps] <;> omega

/-- Between steps nothing is left to ask but the order of the history (R104). -/
theorem EngineInv.phaseOrder {s : State} (hinv : EngineInv s) (ho : accessOrder none s.hist = true) : PhaseOrder s :=
  phaseOrder_of_not_clock ho fun c hc => waitsAt_not_clock (hinv.inFlight c hc).1

/-- A command that is issued keeps the order of the history. -/
theorem exec_keeps_accessOrder {i : Instr} {s t : State} (hi : i.isCommand = true) (ho : accessOrder none s.hist = true)
    (h : exec i s = .next t) : accessOrder none t.hist = true := by
  rw [exec_of_admitted hi (admitted_of_next hi h)] at h
  have hstart : PhaseOrder { s with cur := some ⟨i, 1, none, 0x00⟩, res := none } :=
    phaseOrder_of_not_clock ho fun c hc => by cases hc; cases i <;> simp [clockSteps]
  exact (runToWait_keeps_phaseOrder hstart h).order

theorem CallerOnly.of_suffix {l l' : List Input} (h : CallerOnly l) (hs : l' <:+ l) : CallerOnly l' := fun i hi => h i (hs.subset hi)

/-- Settles O35: of the cases of a step, a control word is ruled out, a reset leaves no history, and the others run micro-steps or nothing. -/
theorem stepKeepsAccessOrder : Obligations.StepKeepsAccessOrder := by
  intro s t hinv hcaller ho h
  constructor
  · obtain ⟨rest, hsuff, hf | hr⟩ := step_framed_or_reset h
    · exact hf.inputs ▸ hcaller.of_suffix hsuff
    · exact hr.inputs ▸ hcaller.of_suffix hsuff
  · rcases step_cases h with ⟨-, hr, -⟩ | ⟨-, -, rfl⟩ | ⟨w, rest, -, -, rfl⟩ | ⟨i, w, rest, -, hd, he⟩ | ⟨i, w, rest, -, hi, -, -⟩ |
      ⟨k, rest, u, -, -, rfl⟩ | ⟨i, w, k, rest, u, v, -, -, -, -, -, rfl⟩
    · exact (runToWait_keeps_phaseOrder (hinv.phaseOrder ho) hr).order
    · exact ho
    · exact ho
    · exact exec_keeps_accessOrder (s := s.withInputs rest) (isCommand_of_decodeCommand hd) ho he
    · exact (hcaller _ (hi ▸ List.mem_cons_self) w rfl).elim
    · rfl
    · rfl

end Sys2Proof.Machine
end

section
/-! SUPPORT. The four fields of a command word (R50, R59): they make up the word, encoding puts the operands into them, and a row of R51 is met field by field. -/

namespace Sys2Proof

/-- The flag holds the bit (R59). -/
theorem bit_dirField_eq_extract (w : CommandWord) : (dirField w).bit = w.extractLsb' 8 1 := by
  apply BitVec.eq_of_getLsbD_eq
  intro k hk
  obtain rfl : k = 0 := by omega
  simpa [BitVec.getLsbD_extractLsb'] using bit_dirField w

theorem Direction.bit_inj {d e : Direction} : d.bit = e.bit ↔ d = e := by
  cases d <;> cases e <;> decide

theorem Direction.ne_write {d : Direction} : ¬ d = .write ↔ d = .read := by cases d <;> decide
theorem Direction.ne_read {d : Direction} : ¬ d = .read ↔ d = .write := by cases d <;> decide

/-- "`cmd[15:8]`" is the address and the direction (R56). -/
theorem extract_addr_dir (w : CommandWord) : w.extractLsb' 8 8 = addrField w ++ (dirField w).bit := by
  rw [bit_dirField_eq_extract, addrField, BitVec.extractLsb'_append_extractLsb'_eq_extractLsb' (by rfl)]

/-- Bits 15 to 0, all operand fields together (R50). -/
theorem extract_operands (w : CommandWord) : w.extractLsb' 0 16 = w.extractLsb' 8 8 ++ dataField w := by
  rw [dataField, BitVec.extractLsb'_append_extractLsb'_eq_extractLsb' (by rfl)]

/-- A command word is its opcode and its operand fields (R50). -/
theorem eq_append_fields (w : CommandWord) : w = opField w ++ (addrField w ++ (dirField w).bit ++ dataField w) := by
  rw [← extract_addr_dir, ← extract_operands, opField, BitVec.extractLsb'_append_extractLsb'_eq_extractLsb' (by rfl)]
  exact BitVec.extractLsb'_eq_self.symm

theorem opField_encodeFields (m : CommandWord) (a : Addr) (d : Direction) (b : Byte) :
    opField (encodeFields m a d b) = opField m := by
  apply BitVec.eq_of_getLsbD_eq
  intro k hk
  rw [opField, BitVec.getLsbD_extractLsb', Laws.getLsbD_encodeFields _ _ _ _ (by omega)]
  interval_cases k <;> simp [opField]

theorem addrField_encodeFields {m : CommandWord} (hm : addrField m = 0) (a : Addr) (d : Direction) (b : Byte) :
    addrField (encodeFields m a d b) = a := by
  refine Eq.trans (b := addrField m ||| a) ?_ (hm ▸ BitVec.zero_or)
  apply BitVec.eq_of_getLsbD_eq
  intro k hk
  rw [addrField, BitVec.getLsbD_extractLsb', Laws.getLsbD_encodeFields _ _ _ _ (by omega)]
  interval_cases k <;> simp [addrField]

theorem dataField_encodeFields {m : CommandWord} (hm : dataField m = 0) (a : Addr) (d : Direction) (b : Byte) :
    dataField (encodeFields m a d b) = b := by
  refine Eq.trans (b := dataField m ||| b) ?_ (hm ▸ BitVec.zero_or)
  apply BitVec.eq_of_getLsbD_eq
  intro k hk
  rw [dataField, BitVec.getLsbD_extractLsb', Laws.getLsbD_encodeFields _ _ _ _ (by omega)]
  interval_cases k <;> simp [dataField]

theorem bit_dirField_encodeFields (m : CommandWord) (a : Addr) (d : Direction) (b : Byte) :
    (dirField (encodeFields m a d b)).bit = (dirField m).bit ||| d.bit := by
  rw [bit_dirField_eq_extract, bit_dirField_eq_extract]
  apply BitVec.eq_of_getLsbD_eq
  intro k hk
  rw [BitVec.getLsbD_extractLsb', Laws.getLsbD_encodeFields _ _ _ _ (by omega)]
  interval_cases k; simp

theorem dirField_encodeFields {m : CommandWord} (hm : dirField m = .write) (a : Addr) (d : Direction) (b : Byte) :
    dirField (encodeFields m a d b) = d := by
  rw [← Direction.bit_inj, bit_dirField_encodeFields, hm]
  exact BitVec.zero_or

theorem opField_and (w v : CommandWord) : opField (w &&& v) = opField w &&& opField v := BitVec.extractLsb'_and

theorem addrField_and (w v : CommandWord) : addrField (w &&& v) = addrField w &&& addrField v := BitVec.extractLsb'_and

theorem bit_dirField_and (w v : CommandWord) : (dirField (w &&& v)).bit = (dirField w).bit &&& (dirField v).bit := by
  simp only [bit_dirField_eq_extract, BitVec.extractLsb'_and]

theorem dataField_and (w v : CommandWord) : dataField (w &&& v) = dataField w &&& dataField v := BitVec.extractLsb'_and

/-- Joined bit strings are equal exactly when their parts are. -/
theorem append_eq_iff_parts {m n : Nat} {x x' : BitVec m} {y y' : BitVec n} : x ++ y = x' ++ y' ↔ x = x' ∧ y = y' := by
  constructor
  · intro h
    have hx := congrArg (BitVec.extractLsb' n m) h
    have hy := congrArg (BitVec.extractLsb' 0 n) h
    rw [BitVec.extractLsb'_append_eq_left, BitVec.extractLsb'_append_eq_left] at hx
    rw [BitVec.extractLsb'_append_eq_right, BitVec.extractLsb'_append_eq_right] at hy
    exact ⟨hx, hy⟩
  · rintro ⟨rfl, rfl⟩
    rfl

/-- Two command words are equal exactly when their four fields are (R50). -/
theorem eq_iff_fields {w v : CommandWord} :
    w = v ↔ opField w = opField v ∧ addrField w = addrField v ∧ (dirField w).bit = (dirField v).bit ∧ dataField w = dataField v := by
  constructor
  · rintro rfl
    exact ⟨rfl, rfl, rfl, rfl⟩
  · rintro ⟨hop, haddr, hdir, hdata⟩
    rw [eq_append_fields w, eq_append_fields v, hop, haddr, hdir, hdata]

/-- The bits 15 to 8 that WRITE_BYTE requires to be zero (R60). -/
theorem extract_addr_dir_eq_zero {w : CommandWord} : w.extractLsb' 8 8 = 0 ↔ addrField w = 0 ∧ dirField w = .write := by
  rw [extract_addr_dir, ← Direction.bit_inj]
  exact append_eq_iff_parts (x' := (0 : Addr)) (y' := (0 : BitVec 1))

/-- The bits 15 to 0 that INIT, READ_BYTE and STOP require to be zero (R60). -/
theorem extract_operands_eq_zero {w : CommandWord} :
    w.extractLsb' 0 16 = 0 ↔ addrField w = 0 ∧ dirField w = .write ∧ dataField w = 0 := by
  rw [extract_operands, ← and_assoc, ← extract_addr_dir_eq_zero]
  exact append_eq_iff_parts (x' := (0 : Byte)) (y' := (0 : Byte))

/-- "`w & mask == match`" (R51), field by field. -/
theorem Row.matches_iff_fields {r : Row} {w : CommandWord} :
    r.matches w = true ↔ opField w &&& opField r.mask = opField r.mtch ∧ addrField w &&& addrField r.mask = addrField r.mtch ∧
      (dirField w).bit &&& (dirField r.mask).bit = (dirField r.mtch).bit ∧ dataField w &&& dataField r.mask = dataField r.mtch := by
  rw [Row.matches, beq_iff_eq, eq_iff_fields, opField_and, addrField_and, bit_dirField_and, dataField_and]

/-- INIT, READ_BYTE and STOP: a row that fixes every bit, the operand bits to zero, has one word (R51). -/
theorem Row.matches_iff_of_all_fixed {r : Row} {w : CommandWord} (hmask : r.mask = BitVec.allOnes 20) (hzero : r.mtch.extractLsb' 0 16 = 0) :
    r.matches w = true ↔ opField w = opField r.mtch ∧ w.extractLsb' 0 16 = 0 := by
  obtain ⟨haddr, hdir, hdata⟩ := extract_operands_eq_zero.1 hzero
  rw [Row.matches, beq_iff_eq, hmask, BitVec.and_allOnes, eq_iff_fields, Direction.bit_inj, haddr, hdir, hdata, extract_operands_eq_zero]

theorem startRow_matches {w : CommandWord} : startRow.matches w = true ↔ opField w = 2 ∧ dataField w = 0 := by
  rw [Row.matches_iff_fields]
  change opField w &&& BitVec.allOnes 4 = 2 ∧ addrField w &&& 0#7 = 0#7 ∧ (dirField w).bit &&& 0#1 = 0#1 ∧ dataField w &&& BitVec.allOnes 8 = 0 ↔ _
  simp only [BitVec.and_allOnes, BitVec.and_zero, true_and]

theorem writeByteRow_matches {w : CommandWord} : writeByteRow.matches w = true ↔ opField w = 3 ∧ w.extractLsb' 8 8 = 0 := by
  rw [Row.matches_iff_fields, extract_addr_dir_eq_zero, ← Direction.bit_inj]
  change opField w &&& BitVec.allOnes 4 = 3 ∧ addrField w &&& BitVec.allOnes 7 = 0 ∧ (dirField w).bit &&& BitVec.allOnes 1 = 0 ∧
    dataField w &&& 0#8 = 0#8 ↔ _ ∧ _ ∧ _ = 0
  simp only [BitVec.and_allOnes, BitVec.and_zero, and_true]

theorem writeTransactionRow_matches {w : CommandWord} :
    writeTransactionRow.matches w = true ↔ opField w = 6 ∧ dirField w = .write := by
  rw [Row.matches_iff_fields, ← Direction.bit_inj]
  change opField w &&& BitVec.allOnes 4 = 6 ∧ addrField w &&& 0#7 = 0#7 ∧ (dirField w).bit &&& BitVec.allOnes 1 = 0 ∧ dataField w &&& 0#8 = 0#8 ↔
    _ ∧ _ = 0
  simp only [BitVec.and_allOnes, BitVec.and_zero, true_and, and_true]

theorem readTransactionRow_matches {w : CommandWord} :
    readTransactionRow.matches w = true ↔ opField w = 7 ∧ dirField w = .read ∧ dataField w = 0 := by
  rw [Row.matches_iff_fields, ← Direction.bit_inj]
  change opField w &&& BitVec.allOnes 4 = 7 ∧ addrField w &&& 0#7 = 0#7 ∧ (dirField w).bit &&& BitVec.allOnes 1 = 1 ∧
    dataField w &&& BitVec.allOnes 8 = 0 ↔ _ ∧ _ = 1 ∧ _
  simp only [BitVec.and_allOnes, BitVec.and_zero, true_and]

/-- The test of R63 rejects exactly the words that are not of the row. -/
theorem ifMatches_eq_error {r : Row} {w : CommandWord} {i : Instr} : (∃ why, ifMatches r w i = .error why) ↔ ¬ r.matches w = true := by
  unfold ifMatches
  split <;> simp [*]

/-! ### The decoder on each opcode (R63) -/

theorem decodeCommand_init {w : CommandWord} (hop : opField w = 1) :
    decodeCommand w = ifMatches initRow w .init := by rw [decodeCommand, hop]; rfl

theorem decodeCommand_start {w : CommandWord} (hop : opField w = 2) :
    decodeCommand w = ifMatches startRow w (.start (addrField w) (dirField w)) := by rw [decodeCommand, hop]; rfl

theorem decodeCommand_writeByte {w : CommandWord} (hop : opField w = 3) :
    decodeCommand w = ifMatches writeByteRow w (.writeByte (dataField w)) := by rw [decodeCommand, hop]; rfl

theorem decodeCommand_readByte {w : CommandWord} (hop : opField w = 4) :
    decodeCommand w = ifMatches readByteRow w .readByte := by rw [decodeCommand, hop]; rfl

theorem decodeCommand_stop {w : CommandWord} (hop : opField w = 5) :
    decodeCommand w = ifMatches stopRow w .stop := by rw [decodeCommand, hop]; rfl

theorem decodeCommand_writeTransaction {w : CommandWord} (hop : opField w = 6) :
    decodeCommand w = ifMatches writeTransactionRow w (.writeTransaction (addrField w) (dataField w)) := by rw [decodeCommand, hop]; rfl

theorem decodeCommand_readTransaction {w : CommandWord} (hop : opField w = 7) :
    decodeCommand w = ifMatches readTransactionRow w (.readTransaction (addrField w)) := by rw [decodeCommand, hop]; rfl

theorem decodeCommand_of_no_row {w : CommandWord} (hop : opField w = 0 ∨ 8 ≤ (opField w).toNat) :
    decodeCommand w = .error .noSuchOpcode := by
  have hop' : (opField w).toNat = 0 ∨ 8 ≤ (opField w).toNat := hop.imp_left (congrArg BitVec.toNat)
  unfold decodeCommand
  split
  case h_8 => rfl
  all_goals omega

/-- An opcode without a row, or one of the seven (R51). -/
theorem opField_cases (w : CommandWord) :
    (opField w = 0 ∨ 8 ≤ (opField w).toNat) ∨ opField w = 1 ∨ opField w = 2 ∨ opField w = 3 ∨ opField w = 4 ∨ opField w = 5 ∨
      opField w = 6 ∨ opField w = 7 := by
  generalize opField w = op
  revert op
  decide

end Sys2Proof
end

section
/-! SUPPORT. Steps that take a word from outside, and what becomes of the word (R60, R66, R110, R136; log 6, 7, 15). -/

namespace Sys2Proof.Machine

/-- A word presented at once is decoded and run, whatever is in flight (R136; log 6). -/
theorem step_issueNow {s : State} {w : CommandWord} {rest : List Input} (hi : s.inputs = .issueNow w :: rest) :
    step s = runWord (.command w) (s.withInputs rest) := by
  rw [step, hi]
  rfl

/-- A word that decodes is run (R63). -/
theorem runWord_of_ok {p : PortWord} {i : Instr} (h : decode p = .ok i) (s : State) : runWord p s = exec i s := by
  rw [runWord, h]

/-- A word that does not decode is refused as an illegal encoding (R60, R136). -/
theorem runWord_of_error {p : PortWord} {why : BadWord} (h : decode p = .error why) (s : State) :
    runWord p s = .refused (.illegalEncoding why) := by
  rw [runWord, h]

/-- A control word given to the adapter between commands is decoded and run (log 7). -/
theorem step_control {s : State} {v : Byte} {rest : List Input} (hc : s.cur = none) (hi : s.inputs = .control v :: rest) :
    step s = runWord (.control v) (s.withInputs rest) := by
  rw [step, hi]
  simp [takeInput, hc]

/-- With no command in flight the word the caller issues is decoded and run (R110). -/
theorem step_issue {s : State} {w : CommandWord} {rest : List Input} (hc : s.cur = none) (hi : s.inputs = .issue w :: rest) :
    step s = runWord (.command w) (s.withInputs rest) := by
  rw [step, hi]
  simp [takeInput, hc]

/-- After a fault the caller takes a data phase off its list, and nothing else happens (R66). -/
theorem step_skips {s : State} {w : CommandWord} {rest : List Input} (hc : s.cur = none) (hf : s.reportsFault = true)
    (hi : s.inputs = .issueUnlessFault w :: rest) : step s = .next (s.withInputs rest) := by
  rw [step, hi]
  simp [takeInput, hc, hf]

end Sys2Proof.Machine
end

section
/-! PROOFS. Encoding and decoding are inverse (R63), and the illegal words are those of R60. -/

namespace Sys2Proof.Machine

/-! ### Decoding an encoded command: its opcode selects its row, the row's test passes, each operand lies in its field (R63) -/

theorem decode_encode_start (addr : Addr) (dir : Direction) : decode (encode (.start addr dir)) = .ok (.start addr dir) := by
  have hrow := matches_of_encode (Laws.EncodesItsRow.start addr dir) rfl rfl
  rw [encode, decode, decodeCommand_start (opField_encodeFields ..)]
  refine ifMatches_eq_ok.2 ⟨hrow, ?_⟩
  rw [addrField_encodeFields rfl, dirField_encodeFields rfl]

theorem decode_encode_writeByte (data : Byte) : decode (encode (.writeByte data)) = .ok (.writeByte data) := by
  have hrow := matches_of_encode (Laws.EncodesItsRow.writeByte data) rfl rfl
  rw [encode, decode, decodeCommand_writeByte (opField_encodeFields ..)]
  refine ifMatches_eq_ok.2 ⟨hrow, ?_⟩
  rw [dataField_encodeFields rfl]

theorem decode_encode_writeTransaction (addr : Addr) (data : Byte) :
    decode (encode (.writeTransaction addr data)) = .ok (.writeTransaction addr data) := by
  have hrow := matches_of_encode (Laws.EncodesItsRow.writeTransaction addr data) rfl rfl
  rw [encode, decode, decodeCommand_writeTransaction (opField_encodeFields ..)]
  refine ifMatches_eq_ok.2 ⟨hrow, ?_⟩
  rw [addrField_encodeFields rfl, dataField_encodeFields rfl]

theorem decode_encode_readTransaction (addr : Addr) : decode (encode (.readTransaction addr)) = .ok (.readTransaction addr) := by
  have hrow := matches_of_encode (Laws.EncodesItsRow.readTransaction addr) rfl rfl
  rw [encode, decode, decodeCommand_readTransaction (opField_encodeFields ..)]
  refine ifMatches_eq_ok.2 ⟨hrow, ?_⟩
  rw [addrField_encodeFields rfl]

/-- Settles O1: for every command with an operand by the field its operand lies in; a word without one is a single value. -/
theorem encodedInstructionsDecode : Obligations.EncodedInstructionsDecode := by
  intro i
  cases i with
  | start addr dir => exact decode_encode_start addr dir
  | writeByte data => exact decode_encode_writeByte data
  | writeTransaction addr data => exact decode_encode_writeTransaction addr data
  | readTransaction addr => exact decode_encode_readTransaction addr
  | init | readByte | stop | cwStart | cwClock | cwStop => rfl

/-- Settles O2: a command word is made of its row's bits and its operands; a control word is one of three values. -/
theorem decodedWordsEncodeBack : Obligations.DecodedWordsEncodeBack := by
  intro p i h
  cases p with
  | command w => exact encode_of_decodeCommand h
  | control w =>
    rw [decode, decodeControl] at h
    split_ifs at h with h1 h2 h3 <;> cases h
    · rw [h1]; rfl
    · rw [h2]; rfl
    · rw [h3]; rfl

/-- Settles O4: a word without a row has an opcode outside 1 to 7, any other word is tested against its opcode's row. -/
theorem illegalWordsAreRefused : Obligations.IllegalWordsAreRefused := by
  refine fun w => ⟨?_, fun why s rest hd hi => by rw [step_issueNow hi, runWord_of_error (p := .command w) hd]⟩
  rcases opField_cases w with hop | hop | hop | hop | hop | hop | hop | hop
  · exact iff_of_true ⟨_, decodeCommand_of_no_row hop⟩ (hop.imp_right .inl)
  · rw [decodeCommand_init hop, ifMatches_eq_error, Row.matches_iff_of_all_fixed rfl rfl]
    simp [hop, show opField initRow.mtch = 1 from rfl]
  · rw [decodeCommand_start hop, ifMatches_eq_error, startRow_matches]
    simp [hop]
  · rw [decodeCommand_writeByte hop, ifMatches_eq_error, writeByteRow_matches]
    simp [hop]
  · rw [decodeCommand_readByte hop, ifMatches_eq_error, Row.matches_iff_of_all_fixed rfl rfl]
    simp [hop, show opField readByteRow.mtch = 4 from rfl]
  · rw [decodeCommand_stop hop, ifMatches_eq_error, Row.matches_iff_of_all_fixed rfl rfl]
    simp [hop, show opField stopRow.mtch = 5 from rfl]
  · rw [decodeCommand_writeTransaction hop, ifMatches_eq_error, writeTransactionRow_matches]
    simp [hop, Direction.ne_write]
  · rw [decodeCommand_readTransaction hop, ifMatches_eq_error, readTransactionRow_matches]
    simp [hop, Direction.ne_read, imp_iff_not_or]

/-- Settles O3: each word is read off the pattern of its row. -/
theorem tableWordsDecode : Obligations.TableWordsDecode := by
  unfold Obligations.TableWordsDecode
  decide

end Sys2Proof.Machine
end

section
/-! PROOFS. The values the engine assembles: the address-phase byte (R55, R56), result words (R52, R130) and control words (R54). -/

namespace Sys2Proof.Machine

/-! ### The address-phase byte -/

/-- Shifting the address by one and or-ing the direction puts the two side by side (R56). -/
theorem addressByte_eq_append (addr : Addr) (dir : Direction) : addressByte addr dir = addr ++ dir.bit := by
  rw [addressByte, ← BitVec.setWidth_append_eq_shiftLeft_setWidth_or, BitVec.setWidth_eq]

theorem toNat_addressByte (addr : Addr) (dir : Direction) : (addressByte addr dir).toNat = 2 * addr.toNat + dir.bit.toNat := by
  rw [addressByte_eq_append, BitVec.toNat_append, ← Nat.shiftLeft_add_eq_or_of_lt dir.bit.isLt, Nat.shiftLeft_eq, pow_one, mul_comm]

/-- "`cmd[15:8]`" of a word is the address-phase byte of the operands it carries (R56, R59). -/
theorem extract_eq_addressByte (w : CommandWord) : w.extractLsb' 8 8 = addressByte (addrField w) (dirField w) := by
  rw [extract_addr_dir, addressByte_eq_append]

/-- Settles O5: bits 15 to 8 of a word are the address byte of its fields, and encoding puts the operands into the fields. -/
theorem addressPhaseByte : Obligations.AddressPhaseByte := by
  refine fun addr dir data => ⟨rfl, addressByte_eq_append addr dir, toNat_addressByte addr dir, ?_, ?_, ?_⟩
  · rintro w ⟨⟩
    rw [extract_eq_addressByte, addrField_encodeFields rfl, dirField_encodeFields rfl]
  · rintro w ⟨⟩
    rw [extract_eq_addressByte, addrField_encodeFields rfl, dirField_encodeFields rfl]
  · rintro w ⟨⟩
    have hdir : dirField (encodeFields readTransactionRow.mtch addr .read 0) = .read := by
      rw [← Direction.bit_inj, bit_dirField_encodeFields]
      rfl
    rw [extract_eq_addressByte, addrField_encodeFields rfl, hdir]

/-! ### Result words -/

@[simp] theorem resultFault_resultWord_none (b : Byte) : resultFault (resultWord none b) = 0 := BitVec.extractLsb'_append_eq_left
@[simp] theorem resultData_resultWord_none (b : Byte) : resultData (resultWord none b) = b := BitVec.extractLsb'_append_eq_right
@[simp] theorem resultFault_resultWord_some (f : BusFault) (b : Byte) : resultFault (resultWord (some f) b) = f.code :=
  BitVec.extractLsb'_append_eq_left
@[simp] theorem resultData_resultWord_some (f : BusFault) (b : Byte) : resultData (resultWord (some f) b) = 0 :=
  BitVec.extractLsb'_append_eq_right

/-- Settles O6: both fields by the layout of the word, the codes one by one. -/
theorem resultWordLayout : Obligations.ResultWordLayout := by
  refine fun b => ⟨resultFault_resultWord_none b, resultData_resultWord_none b, fun f => ?_⟩
  refine ⟨resultFault_resultWord_some f b, resultData_resultWord_some f b, ?_⟩
  cases f <;> rfl

/-! ### Control words -/

/-- Settles O7: the bits of three literal bytes. -/
theorem controlWordBits : Obligations.ControlWordBits := by
  refine ⟨rfl, rfl, rfl, fun w => ?_⟩
  cases w <;> decide

end Sys2Proof.Machine
end

section
/-! PROOFS. What the caller issues for a line of assembly, and the steps that take it (R64 to R66, R110; log 6, 7, 15). -/

namespace Sys2Proof.Machine

/-! ### Skipping after a fault -/

/-- No fault has the code 0 (R52, R130). -/
theorem BusFault.code_ne_zero (f : BusFault) : f.code ≠ 0 := by cases f <;> decide

theorem reportsFault_of_res {s : State} {f : BusFault} {b : Byte} (hr : s.res = some (resultWord (some f) b)) :
    s.reportsFault = true := by
  simpa [State.reportsFault, hr] using f.code_ne_zero

/-- After a fault any number of data phases are skipped, one step each (R66). -/
theorem run_skips {l rest : List Input} (hl : ∀ i ∈ l, ∃ w, i = .issueUnlessFault w) :
    ∀ {s : State}, s.cur = none → s.reportsFault = true → s.inputs = l ++ rest →
      Host.Core.run core l.length s = .next (s.withInputs rest) := by
  induction l with
  | nil =>
    rintro s - - hi
    rw [List.nil_append] at hi
    rw [← hi]
    rfl
  | cons i l ih =>
    intro s hc hf hi
    obtain ⟨w, rfl⟩ := hl i List.mem_cons_self
    rw [List.length_cons, core_run_next (step_skips hc hf hi)]
    exact ih (fun j hj => hl j (List.mem_cons_of_mem _ hj)) hc hf rfl

/-! ### Lines -/

theorem addrInRange_eq_true {a : Nat} : addrInRange a = true ↔ a ≤ 127 := by
  rw [addrInRange, decide_eq_true_iff]
  omega

theorem byteInRange_eq_true {b : Nat} : byteInRange b = true ↔ b ≤ 255 := by
  rw [byteInRange, decide_eq_true_iff]
  omega

/-- A line is an error exactly when an operand does not fit (R65). -/
theorem assemble_eq_none {l : AsmLine} : assemble l = none ↔ ¬ l.wellFormed = true := by
  unfold assemble
  split <;> simp [*]

theorem assemble_writeReg {a r b : Nat} (ha : a ≤ 127) (hr : r ≤ 255) (hb : b ≤ 255) : assemble (.writeReg a r b) =
    some [.start (BitVec.ofNat 7 a) .write, .writeByte (BitVec.ofNat 8 r), .writeByte (BitVec.ofNat 8 b), .stop] := by
  refine if_pos ?_
  simp [AsmLine.wellFormed, addrInRange_eq_true, byteInRange_eq_true, ha, hr, hb]

theorem assemble_probe {a : Nat} (d : Direction) (ha : a ≤ 127) :
    assemble (.probe a d) = some [.start (BitVec.ofNat 7 a) d, .stop] := if_pos (addrInRange_eq_true.2 ha)

/-- A line that is one command is no pseudo-instruction, and its command can be issued (R64, R66). -/
theorem assemble_eq_singleton {l : AsmLine} {i : Instr} (h : assemble l = some [i]) : isExpansion l = false ∧ i.isCommand = true := by
  unfold assemble at h
  split at h
  · cases l <;> cases h <;> exact ⟨rfl, rfl⟩
  · cases h

/-- A command has a command word (R51). -/
theorem exists_commandWord {i : Instr} (h : i.isCommand = true) : ∃ w, encode i = .command w := by
  cases i with
  | cwStart | cwClock | cwStop => cases h
  | _ => exact ⟨_, rfl⟩

theorem callerInput_of_encode {i : Instr} {w : CommandWord} (h : encode i = .command w) (e : Bool) :
    callerInput e i = some (if e && isDataPhase i then .issueUnlessFault w else .issue w) := by
  rw [callerInput, commandWord?, h]
  rfl

/-- The caller issues a line that is one command whatever came before it (R66; log 15). -/
theorem lineInputs_of_singleton {l : AsmLine} {i : Instr} (h : assemble l = some [i]) :
    ∃ w, encode i = .command w ∧ lineInputs l = some [.issue w] := by
  obtain ⟨hexp, hi⟩ := assemble_eq_singleton h
  obtain ⟨w, hw⟩ := exists_commandWord hi
  refine ⟨w, hw, ?_⟩
  rw [lineInputs, h, hexp]
  simp [callerInput_of_encode hw]

/-- Settles O28: the moves by the expansions, the skips by induction on the data phases left, the STOP as the word it is. -/
theorem expansionSkipsToStopAfterFault : Obligations.ExpansionSkipsToStopAfterFault := by
  refine ⟨fun a r b ha hr hb => ⟨_, _, _, rfl, rfl, rfl, ?_⟩, fun a d ha => ⟨_, rfl, ?_⟩, fun l i => lineInputs_of_singleton,
    fun s l rest f b hc hr hl hi => ⟨run_skips hl hc (reportsFault_of_res hr) hi, ?_⟩⟩
  · rw [lineInputs, assemble_writeReg ha hr hb]
    rfl
  · rw [lineInputs, assemble_probe d ha]
    rfl
  · have hstop : decode (.command 0x50000) = .ok .stop := rfl
    rw [step_issue (s := { s with inputs := .issue 0x50000 :: rest }) hc rfl, runWord_of_ok hstop]
    rfl

/-- Settles O60: a line is an error when it is not well-formed, and that is the range of each operand. -/
theorem operandRangeErrors : Obligations.OperandRangeErrors := by
  refine fun a r b d => ⟨?_, ?_, ?_, ?_, ?_, ?_, assemble_writeReg⟩
  all_goals
    simp only [assemble_eq_none, AsmLine.wellFormed, Bool.and_eq_true, addrInRange_eq_true, byteInRange_eq_true]
    omega

/-! ### Table words -/

theorem decodeTableWord_eq_some {k n : Nat} {i : Instr} (h : decodeTableWord k n = some i) :
    ∃ p, tableWord k n = some p ∧ decode p = .ok i := by
  unfold decodeTableWord at h
  split at h
  · cases h
  · next p hp =>
    refine ⟨p, hp, ?_⟩
    cases hd : decode p with
    | ok j => rw [hd] at h; cases h; rfl
    | error why => rw [hd] at h; cases h

/-- A 24-bit row of the table is presented at the command port (R50). -/
theorem tableWord_24 {n : Nat} {p : PortWord} (h : tableWord 24 n = some p) : ∃ w, p = .command w := by
  rw [tableWord, if_neg (by decide), if_pos (by decide)] at h
  split at h <;> cases h
  exact ⟨_, rfl⟩

/-- An 8-bit row of the table is presented at the adapter (R53). -/
theorem tableWord_8 {n : Nat} {p : PortWord} (h : tableWord 8 n = some p) : ∃ v, p = .control v := by
  rw [tableWord, if_pos (by decide)] at h
  split at h <;> cases h
  exact ⟨_, rfl⟩

theorem inputOfTableWord_command {k n : Nat} {w : CommandWord} (h : tableWord k n = some (.command w)) :
    inputOfTableWord k n = .issueNow w := by
  rw [inputOfTableWord, h]

theorem inputOfTableWord_control {k n : Nat} {v : Byte} (h : tableWord k n = some (.control v)) :
    inputOfTableWord k n = .control v := by
  rw [inputOfTableWord, h]

/-- Settles O26: the placed word is the first input, and taking it leaves the state it was placed in. -/
theorem placedWordRuns : Obligations.PlacedWordRuns := by
  refine fun s n i => ⟨fun h => ?_, fun h hc => ?_⟩
  · obtain ⟨p, hp, hd⟩ := decodeTableWord_eq_some h
    obtain ⟨w, rfl⟩ := tableWord_24 hp
    rw [State.withFetchWord, inputOfTableWord_command hp, step_issueNow rfl, runWord_of_ok hd]
    rfl
  · obtain ⟨p, hp, hd⟩ := decodeTableWord_eq_some h
    obtain ⟨v, rfl⟩ := tableWord_8 hp
    rw [State.withFetchWord, inputOfTableWord_control hp, step_control (s := s.withInputs (.control v :: s.inputs)) hc rfl, runWord_of_ok hd]
    rfl

end Sys2Proof.Machine
end

section
/-! PROOFS. The adapter's operations by themselves: the poll of a waiting command (R75), and the control words (R71 to R74). -/

namespace Sys2Proof.Machine

/-! ### The poll -/

/-- A command that stands at a wait of its rule performs AWAIT_COMPLETION and CHECK next, with the code and the fault its rule names there
(R79, R82 to R84, R90, R91). -/
theorem microStep_of_waitsAt {c : Cur} {f : Fsm} (h : waitsAt c.cmd c.seq f) (s : State) :
    ∃ exp kind onPass, expectedAt s.cfg.status c.cmd c.seq = some (exp, kind) ∧
      microStep c s = awaitAndCheck exp kind c onPass s := by
  obtain ⟨cmd, seq, flt, ret⟩ := c
  cases cmd with
  | start addr dir => obtain ⟨rfl, -⟩ | ⟨rfl, -⟩ := h <;> exact ⟨_, _, _, rfl, rfl⟩
  | writeByte data => obtain ⟨rfl, -⟩ := h; exact ⟨_, _, _, rfl, rfl⟩
  | readByte => obtain ⟨rfl, -⟩ := h; exact ⟨_, _, _, rfl, rfl⟩
  | writeTransaction addr data => obtain ⟨rfl, -⟩ | ⟨rfl, -⟩ | ⟨rfl, -⟩ := h <;> exact ⟨_, _, _, rfl, rfl⟩
  | readTransaction addr => obtain ⟨rfl, -⟩ | ⟨rfl, -⟩ | ⟨rfl, -⟩ := h <;> exact ⟨_, _, _, rfl, rfl⟩
  | init | stop | cwStart | cwClock | cwStop => exact h.elim

/-- A command in flight that polls a clear flag stays at its wait, and the step ends there (R75, R104). -/
theorem resume_of_busy {s : State} {c : Cur} {x : Byte} {b : Bus} (hinv : EngineInv s) (hc : s.cur = some c) (hb : s.bus.Busy x b) :
    resume s = .next { s with bus := b, hist := s.hist ++ [.rd .cr x] } := by
  obtain ⟨hwait, -, -⟩ := hinv.inFlight c hc
  obtain ⟨exp, kind, onPass, -, hm⟩ := microStep_of_waitsAt hwait s
  exact runToWait_wait hc (hm.trans (awaitAndCheck_busy hb))

/-- Settles O19: the command stands at a wait, and its one micro-step is a poll that sees the flag clear. -/
theorem waitingPollsAgain : Obligations.WaitingPollsAgain := fun _ _ _ _ hinv hc hi hb =>
  (step_of_no_inputs hi).trans (resume_of_busy hinv hc hb)

/-! ### The control words -/

/-- ASSERT(`w`): the byte of `w` goes to `CR`, and the event is recorded (R34, R71). -/
theorem State.assertWord_eq (w : ControlWord) (s : State) :
    s.assertWord w = { s with bus := s.bus.write .cr w.byte, hist := s.hist ++ [.wr .cr w.byte] } := rfl

/-- Settles O18: each row asserts its control word, whose byte is that of R54. -/
theorem controlWordsAsserted : Obligations.ControlWordsAsserted := by
  intro s
  simp only [exec, execCwStart, execCwClock, execCwStop, State.assertWord_eq, ControlWord.byte_start, ControlWord.byte_clock,
    ControlWord.byte_stop, and_self]

end Sys2Proof.Machine
end

section
/-! SUPPORT. A run of micro-steps, phase by phase: the wait and its check, the phases that assert a control word, the closing
STOP (R79, R82 to R85, R90, R91). -/

namespace Sys2Proof.Machine

/-! ### A wait and its check -/

section
variable {n : Nat} {s : State} {c : Cur} {exp : Byte} {kind : BusFault} {f : State → State} {x v : Byte} {b : Bus}
  (hc : s.cur = some c) (hm : microStep c s = awaitAndCheck exp kind c f s)
include hc hm

theorem runToWait_busy (hb : s.bus.Busy x b) : runToWait (n + 1) s = .next { s with bus := b, hist := s.hist ++ [.rd .cr x] } :=
  runToWait_wait hc (hm.trans (awaitAndCheck_busy hb))

theorem runToWait_pass (ha : s.bus.Answers x v b) (hv : statusCode v = exp) :
    runToWait (n + 1) s = runToWait n (f { s with bus := b, hist := s.hist ++ [.rd .cr x, .rd .sr v] }) :=
  runToWait_go hc (hm.trans (awaitAndCheck_pass ha hv))

/-- A failed check of a primitive returns the fault (R81, R139). -/
theorem runToWait_fail_primitive (hp : closingStop c.cmd = none) (ha : s.bus.Answers x v b) (hv : statusCode v ≠ exp) :
    runToWait (n + 1) s = .next { s with
      fsm := .faulted, cur := none, res := some (resultWord (some (phaseFault s.cfg.status (statusCode v) kind)) 0x00), bus := b,
      hist := s.hist ++ [.rd .cr x, .rd .sr v] } := by
  rw [runToWait_go hc (hm.trans (awaitAndCheck_fail ha hv)), State.raiseBusFault_primitive hp, runToWait_none rfl]

/-- A failed check of a composite leads to its closing STOP (R92, R139). -/
theorem runToWait_fail_composite {k : Nat} (hp : closingStop c.cmd = some k) (ha : s.bus.Answers x v b) (hv : statusCode v ≠ exp) :
    runToWait (n + 1) s = runToWait n { s with
      fsm := .faulted, cur := some { c with flt := some (phaseFault s.cfg.status (statusCode v) kind), seq := k }, bus := b,
      hist := s.hist ++ [.rd .cr x, .rd .sr v] } := by
  rw [runToWait_go hc (hm.trans (awaitAndCheck_fail ha hv)), State.raiseBusFault_composite hp]

end

/-! ### The phases -/

/-- The commands with an address phase, its address and its direction (R82, R90, R91). -/
inductive Addresses : Instr → Addr → Direction → Prop
  | start (a : Addr) (d : Direction) : Addresses (.start a d) a d
  | writeTransaction (a : Addr) (w : Byte) : Addresses (.writeTransaction a w) a .write
  | readTransaction (a : Addr) : Addresses (.readTransaction a) a .read

/-- The commands with a data phase, the byte it stages, and how many micro-steps come before it (R83, R84, R90, R91). -/
inductive Stages : Instr → Byte → Nat → Prop
  | writeByte (w : Byte) : Stages (.writeByte w) w 0
  | readByte : Stages .readByte 0x00 0
  | writeTransaction (a : Addr) (w : Byte) : Stages (.writeTransaction a w) w 5
  | readTransaction (a : Addr) : Stages (.readTransaction a) 0x00 5

section
variable {n : Nat} {s : State} {i : Instr} {flt : Option BusFault} {ret : Byte}

/-- WRITE_DATA, then ASSERT(`CW_CLOCK`): two micro-steps that stage a byte and clock it (R73, R76). -/
theorem runToWait_clockByte {j k m : Nat} {u : State} {w : Byte} (hc : s.cur = some ⟨i, j, flt, ret⟩)
    (hw : microStep ⟨i, j, flt, ret⟩ s = .go ((u.writeData w).goTo ⟨i, j, flt, ret⟩ k))
    (hk : ∀ t, microStep ⟨i, k, flt, ret⟩ t = .go ((t.assertWord .clock).goTo ⟨i, k, flt, ret⟩ m)) :
    runToWait (n + 2) s = runToWait n { u with
      txb := w, cur := some ⟨i, m, flt, ret⟩, bus := (u.bus.write .dr w).write .cr 0xC4,
      hist := u.hist ++ [.wr .dr w, .wr .cr 0xC4] } := by
  rw [runToWait_go hc hw, runToWait_go (State.goTo_cur _ k _) (hk _)]
  simp [State.assertWord_eq, State.goTo, State.writeData, State.memWrite, State.record, State.withCur, State.withTxb, State.withBus]

/-- The first five micro-steps are START's (R82, R90, R91). -/
theorem Addresses.microStep_eq {a : Addr} {d : Direction} {k : Nat} (h : Addresses i a d) (hk : k ≤ 5) :
    ∃ f, ∀ s, microStep ⟨i, k, flt, ret⟩ s = startPhase a d k ⟨i, k, flt, ret⟩ f s := by
  cases h with
  | start => exact ⟨_, fun _ => rfl⟩
  | writeTransaction _ w => exact ⟨fun t => t.goTo ⟨.writeTransaction a w, k, flt, ret⟩ 6, fun s => by interval_cases k <;> rfl⟩
  | readTransaction => exact ⟨fun t => t.goTo ⟨.readTransaction a, k, flt, ret⟩ 6, fun s => by interval_cases k <;> rfl⟩

/-- The first micro-step asserts START (R72, R82). -/
theorem Addresses.runToWait_start {a : Addr} {d : Direction} (h : Addresses i a d) (hc : s.cur = some ⟨i, 1, flt, ret⟩) :
    runToWait (n + 1) s = runToWait n { s with
      cur := some ⟨i, 2, flt, ret⟩, bus := s.bus.write .cr 0xA4, hist := s.hist ++ [.wr .cr 0xA4] } := by
  obtain ⟨f, hm⟩ := h.microStep_eq (k := 1) (by decide)
  exact runToWait_go hc (hm s)

/-- The first check passed, the address-phase byte is clocked (R82). -/
theorem Addresses.runToWait_addressPhase {a : Addr} {d : Direction} {x v : Byte} {b : Bus} (h : Addresses i a d)
    (hc : s.cur = some ⟨i, 2, flt, ret⟩) (ha : s.bus.Answers x v b) (hv : statusCode v = s.cfg.status.start) :
    runToWait (n + 3) s = runToWait n { s with
      fsm := .started, txb := addressByte a d, cur := some ⟨i, 5, flt, ret⟩,
      bus := (b.write .dr (addressByte a d)).write .cr 0xC4,
      hist := s.hist ++ [.rd .cr x, .rd .sr v, .wr .dr (addressByte a d), .wr .cr 0xC4] } := by
  obtain ⟨f, hwait⟩ := h.microStep_eq (k := 2) (by decide)
  obtain ⟨g, hwrite⟩ := h.microStep_eq (k := 3) (by decide)
  obtain ⟨g', hclock⟩ := h.microStep_eq (k := 4) (by decide)
  rw [runToWait_pass hc (hwait s) ha hv, runToWait_clockByte rfl (hwrite _) hclock]
  simp [State.goTo, State.withFsm, State.withCur]

/-- The data phase: its byte is clocked (R83, R84). -/
theorem Stages.runToWait_dataPhase {base : Nat} {w : Byte} (h : Stages i w base) (hc : s.cur = some ⟨i, base + 1, flt, ret⟩) :
    runToWait (n + 2) s = runToWait n { s with
      fsm := .dataPhase, txb := w, cur := some ⟨i, base + 3, flt, ret⟩, bus := (s.bus.write .dr w).write .cr 0xC4,
      hist := s.hist ++ [.wr .dr w, .wr .cr 0xC4] } := by
  cases h <;> exact runToWait_clockByte (u := s.withFsm .dataPhase) hc rfl fun _ => rfl

end

/-- The closing STOP of a composite returns what it has kept (R90, R91, R92). -/
theorem runToWait_closingStop {n : Nat} {s : State} {c : Cur} (hc : s.cur = some c) (hstop : closingStop c.cmd = some c.seq) :
    runToWait (n + 1) s = .next { s with
      fsm := fsmAfterStop s.fsm, cur := none, res := some (resultWord c.flt c.ret), bus := s.bus.write .cr 0x94,
      hist := s.hist ++ [.wr .cr 0x94] } := by
  have hm : microStep c s = .go (s.stopBody.finish c.flt c.ret) := by
    obtain ⟨cmd, seq, flt, ret⟩ := c
    cases cmd <;> cases hstop <;> rfl
  rw [runToWait_go hc hm, runToWait_none rfl]
  simp [State.stopBody, State.finish, State.assertWord_eq, State.withFsm, State.withCur, State.withRes]

/-! ### The last wait of a command -/

section
variable {n : Nat} {s : State} {x v y : Byte} {b d : Bus} {flt : Option BusFault} {ret : Byte}

/-- START returns (R82). -/
theorem runToWait_start_returns {a : Addr} {dir : Direction} (hc : s.cur = some ⟨.start a dir, 5, flt, ret⟩) (ha : s.bus.Answers x v b)
    (hv : statusCode v = addrAck s.cfg.status dir) :
    runToWait (n + 1) s = .next { s with
      fsm := .addressSent, cur := none, res := some 0x000, bus := b, hist := s.hist ++ [.rd .cr x, .rd .sr v] } :=
  (runToWait_pass hc rfl ha hv).trans (runToWait_none rfl)

/-- WRITE_BYTE returns (R83). -/
theorem runToWait_writeByte_returns {w : Byte} (hc : s.cur = some ⟨.writeByte w, 3, flt, ret⟩) (ha : s.bus.Answers x v b)
    (hv : statusCode v = s.cfg.status.dataTxAck) :
    runToWait (n + 1) s = .next { s with cur := none, res := some 0x000, bus := b, hist := s.hist ++ [.rd .cr x, .rd .sr v] } :=
  (runToWait_pass hc rfl ha hv).trans (runToWait_none rfl)

/-- READ_BYTE reads `DR` and returns the byte (R84). -/
theorem runToWait_readByte_returns (hc : s.cur = some ⟨.readByte, 3, flt, ret⟩) (ha : s.bus.Answers x v b)
    (hv : statusCode v = s.cfg.status.dataRxAck) (hy : b.read .dr = (y, d)) :
    runToWait (n + 2) s = .next { s with
      rxb := y, cur := none, res := some (resultWord none y), bus := d, hist := s.hist ++ [.rd .cr x, .rd .sr v, .rd .dr y] } := by
  rw [runToWait_pass hc rfl ha hv, runToWait_go rfl rfl, runToWait_none rfl]
  simp [State.readData, State.memRead_eq, State.goTo, State.finish, State.withCur, State.withRxb, State.withRes, hy]

/-- WRITE_TRANSACTION asserts its STOP and returns (R90). -/
theorem runToWait_writeTransaction_returns {a : Addr} {w : Byte} (hc : s.cur = some ⟨.writeTransaction a w, 8, flt, ret⟩)
    (ha : s.bus.Answers x v b) (hfsm : s.fsm = .dataPhase) (hv : statusCode v = s.cfg.status.dataTxAck) :
    runToWait (n + 2) s = .next { s with
      fsm := .complete, cur := none, res := some (resultWord flt ret), bus := b.write .cr 0x94,
      hist := s.hist ++ [.rd .cr x, .rd .sr v, .wr .cr 0x94] } := by
  rw [runToWait_pass hc rfl ha hv, runToWait_closingStop rfl rfl]
  simp [State.goTo, State.withCur, hfsm, fsmAfterStop]

/-- READ_TRANSACTION reads `DR`, asserts its STOP and returns the byte (R91). -/
theorem runToWait_readTransaction_returns {a : Addr} (hc : s.cur = some ⟨.readTransaction a, 8, flt, ret⟩)
    (ha : s.bus.Answers x v b) (hfsm : s.fsm = .dataPhase) (hv : statusCode v = s.cfg.status.dataRxAck) (hy : b.read .dr = (y, d)) :
    runToWait (n + 3) s = .next { s with
      fsm := .complete, rxb := y, cur := none, res := some (resultWord flt y), bus := d.write .cr 0x94,
      hist := s.hist ++ [.rd .cr x, .rd .sr v, .rd .dr y, .wr .cr 0x94] } := by
  rw [runToWait_pass hc rfl ha hv, runToWait_go rfl rfl, runToWait_closingStop rfl rfl]
  simp [State.readData, State.memRead_eq, State.goTo, State.withCur, State.withRxb, hfsm, fsmAfterStop, hy]

end

/-! ### Micro-steps left over -/

/-- No command has a micro-step after its tenth (R91). -/
theorem microStep_of_gt {c : Cur} (h : microSteps < c.seq) (s : State) : microStep c s = .bad := by
  obtain ⟨cmd, seq, flt, ret⟩ := c
  obtain ⟨k, rfl⟩ : ∃ k, seq = k + 11 := ⟨seq - 11, by simp only [microSteps] at h; omega⟩
  cases cmd <;> rfl

/-- A command goes on to a later micro-step. -/
theorem seq_lt_of_microStep {c c' : Cur} {s t : State} (h : microStep c s = .go t) (hc : t.cur = some c') : c.seq < c'.seq := by
  have he := microStep_rxbEffect c s
  rw [h] at he
  rcases he with hk | ⟨-, hn, -⟩ | ⟨-, hseq, hn⟩
  · exact (hk.2 c' hc).2.1
  · cases hn.symm.trans hc
  · cases hn.symm.trans hc
    exact hseq.trans_lt (Nat.lt_succ_self 9)

/-- A run with micro-steps enough to end is the same with one more. -/
theorem runToWait_succ {n : Nat} {s : State} {c : Cur} (hc : s.cur = some c) (hn : microSteps < n + c.seq) :
    runToWait (n + 2) s = runToWait (n + 1) s := by
  induction n generalizing s c with
  | zero => simp [runToWait, hc, microStep_of_gt (hn.trans_eq (Nat.zero_add _))]
  | succ n ih =>
    cases hm : microStep c s with
    | bad => simp [runToWait, hc, hm]
    | wait t => rw [runToWait_wait hc hm, runToWait_wait hc hm]
    | go t =>
      rw [runToWait_go hc hm, runToWait_go hc hm]
      cases ht : t.cur with
      | none => rw [runToWait_none ht, runToWait_none ht]
      | some c' =>
        have hlt := seq_lt_of_microStep hm ht
        exact ih ht (by omega)

theorem runToWait_add {n : Nat} {s : State} {c : Cur} (hc : s.cur = some c) (hn : microSteps < n + c.seq) (k : Nat) :
    runToWait (n + k + 1) s = runToWait (n + 1) s := by
  induction k with
  | zero => rfl
  | succ k ih => exact (runToWait_succ (n := n + k) hc (by omega)).trans ih

end Sys2Proof.Machine
end

section
/-! PROOFS. The five primitive commands as they are issued (R80 to R85). -/

namespace Sys2Proof.Machine

/-! ### The commands without a wait -/

/-- An admitted command has a step's micro-steps to run. -/
theorem exec_eq_runToWait {i : Instr} {s : State} (hi : i.isCommand = true) (hadm : Admitted i s) :
    exec i s = runToWait 10 { s with cur := some ⟨i, 1, none, 0x00⟩, res := none } := exec_of_admitted hi hadm

/-- INIT needs nothing but that no command is in flight (R80). -/
theorem admitted_init {s : State} : Admitted .init s ↔ s.cur = none := by simp [Admitted]

/-- Whatever the command, one in flight refuses it (R97). -/
theorem exec_in_flight {i : Instr} {s : State} (hi : i.isCommand = true) (hc : s.cur ≠ none) : exec i s = .refused .commandInFlight := by
  rw [exec_eq_issue hi, issue, accept, if_pos (Option.isSome_iff_ne_none.2 hc)]

/-- Settles O11: two micro-steps, each one write. -/
theorem initOutcome : Obligations.InitOutcome := by
  refine fun s => ⟨fun hc => ?_, exec_in_flight rfl⟩
  rw [exec_eq_runToWait rfl (admitted_init.2 hc), runToWait_go rfl rfl, runToWait_go rfl rfl, runToWait_none rfl]
  simp [State.configureBitRate, State.configurePrescaler, State.goTo, State.finish, State.memWrite, State.withInitd, State.withCur,
    State.withRes, State.withBus, State.record, hc, prescaler, resultWord]

/-- The second pair of configuration writes finds what the first has left (R34, R117). -/
theorem Bus.write_config_twice (v w : Byte) (b : Bus) :
    (((b.write .brr v).write .psr w).write .brr v).write .psr w = (b.write .brr v).write .psr w := by
  obtain ⟨ctl, env, n⟩ := b
  cases env <;> rfl

/-- Settles O46: INIT's outcome twice, the second time with nothing new to write. -/
theorem initIdempotent : Obligations.InitIdempotent := by
  intro s t h
  have hc : s.cur = none := admitted_init.1 (admitted_of_next rfl h)
  have htwice := (initOutcome t).1
  cases ((initOutcome s).1 hc).symm.trans h
  simpa [Bus.write_config_twice, hc] using htwice

theorem fsmAfterStop_eq (f : Fsm) : fsmAfterStop f = if f = .dataPhase then .complete else .idle := by
  cases f <;> rfl

/-- Settles O15: one micro-step, the body of STOP. -/
theorem stopOutcome : Obligations.StopOutcome := by
  refine fun s => ⟨exec_of_not_admitted rfl, fun hadm => ?_⟩
  rw [exec_eq_runToWait rfl hadm, runToWait_go rfl rfl, runToWait_none rfl]
  simp [State.stopBody, State.finish, State.assertWord_eq, State.withFsm, State.withCur, State.withRes, fsmAfterStop_eq, hadm.1, resultWord]

/-! ### The commands with a wait -/

/-- Settles O12: START to its first wait, from there to its second, and there to its return. -/
theorem startOutcomes : Obligations.StartOutcomes := by
  refine fun addr dir s => ⟨exec_of_not_admitted rfl, fun hadm => ?_⟩
  have hphase : Addresses (.start addr dir) addr dir := .start addr dir
  have hfirst : exec (.start addr dir) s = runToWait 9 { s with
      cur := some ⟨.start addr dir, 2, none, 0x00⟩, res := none, bus := s.bus.write .cr 0xA4, hist := s.hist ++ [.wr .cr 0xA4] } :=
    (exec_eq_runToWait rfl hadm).trans (hphase.runToWait_start rfl)
  refine ⟨fun x b hb => ?_, fun x v b ha => ⟨fun hv => ?_, fun hv => ?_⟩⟩
  · rw [hfirst, runToWait_busy rfl rfl hb]
    simp
  · rw [hfirst, runToWait_fail_primitive rfl rfl rfl ha hv]
    simp
  have hsecond := hfirst.trans (hphase.runToWait_addressPhase rfl ha hv)
  refine ⟨fun y d hb => ?_, fun y u d ha' => ⟨fun hu => ?_, fun hu => ?_⟩⟩
  · rw [hsecond, runToWait_busy rfl rfl hb]
    simp
  · rw [hsecond, runToWait_fail_primitive rfl rfl rfl ha' hu]
    simp
  · refine hsecond.trans (Eq.trans (runToWait_start_returns rfl ha' hu) ?_)
    simp

/-- A primitive data phase up to its wait (R83, R84). -/
theorem Stages.exec_dataPhase {i : Instr} {w : Byte} {s : State} (h : Stages i w 0) (hadm : Admitted i s) :
    exec i s = runToWait 8 { s with
      fsm := .dataPhase, txb := w, cur := some ⟨i, 3, none, 0x00⟩, res := none, bus := (s.bus.write .dr w).write .cr 0xC4,
      hist := s.hist ++ [.wr .dr w, .wr .cr 0xC4] } :=
  have hi : i.isCommand = true := by cases h <;> rfl
  (exec_eq_runToWait hi hadm).trans (h.runToWait_dataPhase rfl)

/-- Settles O13: the data phase to its wait, and there to its return. -/
theorem writeByteOutcomes : Obligations.WriteByteOutcomes := by
  refine fun data s => ⟨exec_of_not_admitted rfl, fun hadm => ?_⟩
  have hphase := (Stages.writeByte data).exec_dataPhase hadm
  refine ⟨fun x b hb => ?_, fun x v b ha => ⟨fun hv => ?_, fun hv => ?_⟩⟩
  · rw [hphase, runToWait_busy rfl rfl hb]
    simp
  · rw [hphase, runToWait_fail_primitive rfl rfl rfl ha hv]
    simp
  · refine hphase.trans (Eq.trans (runToWait_writeByte_returns rfl ha hv) ?_)
    simp

/-- Settles O14: the data phase to its wait, and there to its return. -/
theorem readByteOutcomes : Obligations.ReadByteOutcomes := by
  refine fun s => ⟨exec_of_not_admitted rfl, fun hadm => ?_⟩
  have hphase := Stages.readByte.exec_dataPhase hadm
  refine ⟨fun x b hb => ?_, fun x v b ha => ⟨fun hv => ?_, fun hv y d hy => ?_⟩⟩
  · rw [hphase, runToWait_busy rfl rfl hb]
    simp
  · rw [hphase, runToWait_fail_primitive rfl rfl rfl ha hv]
    simp
  · refine hphase.trans (Eq.trans (runToWait_readByte_returns rfl ha hv hy) ?_)
    simp

end Sys2Proof.Machine
end

section
/-! PROOFS. A command that goes on after a wait (R81 to R84, R90 to R92, R103). -/

namespace Sys2Proof.Machine

/-- Settles O20: a primitive returns the fault, a composite asserts its STOP first. -/
theorem waitingCheckFails : Obligations.WaitingCheckFails := by
  intro s c exp kind x v b hinv hc hi hexp ha hv
  obtain ⟨hwait, -, hret⟩ := hinv.inFlight c hc
  obtain ⟨exp', kind', onPass, hexp', hm⟩ := microStep_of_waitsAt hwait s
  cases hexp.symm.trans hexp'
  rw [step_of_no_inputs hi]
  refine ⟨fun hp => runToWait_fail_primitive hc hm hp ha hv, fun hp => ?_⟩
  obtain ⟨k, hk⟩ := Option.ne_none_iff_exists'.1 hp
  refine (runToWait_fail_composite hc hm hk ha hv).trans ((runToWait_closingStop rfl hk).trans ?_)
  simp [fsmAfterStop, hret]

/-- Settles O21: each command at its last wait. -/
theorem waitingLastCheckPasses : Obligations.WaitingLastCheckPasses := by
  intro s ⟨cmd, seq, flt, ret⟩ exp kind x v b hinv hc hi hexp ha hv
  obtain ⟨hwait, hflt, hret⟩ := hinv.inFlight _ hc
  dsimp only at hwait hflt hret hexp
  subst hflt hret
  rw [step_of_no_inputs hi]
  refine ⟨?_, ?_, ?_, ?_, ?_⟩
  · rintro a d rfl rfl
    cases hexp
    exact runToWait_start_returns hc ha hv
  · rintro w rfl
    obtain ⟨rfl, -⟩ := hwait
    cases hexp
    exact runToWait_writeByte_returns hc ha hv
  · rintro rfl y d hy
    obtain ⟨rfl, -⟩ := hwait
    cases hexp
    exact runToWait_readByte_returns hc ha hv hy
  · rintro a w rfl rfl
    cases hexp
    have hfsm : s.fsm = .dataPhase := by simpa [waitsAt] using hwait
    exact runToWait_writeTransaction_returns hc ha hfsm hv
  · rintro a rfl rfl y d hy
    cases hexp
    have hfsm : s.fsm = .dataPhase := by simpa [waitsAt] using hwait
    exact runToWait_readTransaction_returns hc ha hfsm hv hy

/-- A command that has come to a later wait than its first with three micro-steps of a step used has enough of them left. -/
theorem step_eq_step_of_run {s t : State} {c : Cur} (hi : s.inputs = []) (hi' : t.inputs = []) (hc : t.cur = some c) (hseq : 5 ≤ c.seq)
    (hrun : runToWait 10 s = runToWait 7 t) : step s = step t := by
  have hleft : runToWait 10 t = runToWait 7 t := runToWait_add (n := 6) (k := 3) hc (by simp only [microSteps]; omega)
  rw [step_of_no_inputs hi, step_of_no_inputs hi', resume, resume, microSteps, hrun, hleft]

/-- A composite's second check passed, its data byte is clocked (R90, R91). -/
theorem Stages.step_of_second_check {s : State} {i : Instr} {flt : Option BusFault} {ret w exp : Byte} {kind : BusFault} {x v : Byte}
    {b : Bus} (h : Stages i w 5) (hi : s.inputs = []) (hc : s.cur = some ⟨i, 5, flt, ret⟩)
    (hm : microStep ⟨i, 5, flt, ret⟩ s =
      awaitAndCheck exp kind ⟨i, 5, flt, ret⟩ (fun t => (t.withFsm .addressSent).goTo ⟨i, 5, flt, ret⟩ 6) s)
    (ha : s.bus.Answers x v b) (hv : statusCode v = exp) :
    step s = step { s with
      fsm := .dataPhase, txb := w, cur := some ⟨i, 8, flt, ret⟩, bus := (b.write .dr w).write .cr 0xC4,
      hist := s.hist ++ [.rd .cr x, .rd .sr v, .wr .dr w, .wr .cr 0xC4] } := by
  refine step_eq_step_of_run hi hi rfl (by decide : 5 ≤ 8) ?_
  rw [runToWait_pass hc hm ha hv, h.runToWait_dataPhase rfl]
  simp [State.goTo, State.withFsm, State.withCur]

/-- Settles O22: the micro-steps up to the next wait leave enough of the step for what follows there. -/
theorem waitingGoesOnToNextWait : Obligations.WaitingGoesOnToNextWait := by
  intro s ⟨cmd, seq, flt, ret⟩ exp kind x v b hinv hc hi hexp ha hv
  dsimp only at hexp
  refine ⟨?_, ?_, ?_⟩
  · rintro a d hcmd rfl
    have hphase : Addresses cmd a d := by
      obtain rfl | ⟨rfl, w, rfl⟩ | ⟨rfl, rfl⟩ := hcmd
      exacts [.start a d, .writeTransaction a w, .readTransaction a]
    have hstart : exp = s.cfg.status.start := by cases hphase <;> cases hexp <;> rfl
    exact step_eq_step_of_run hi hi rfl le_rfl (hphase.runToWait_addressPhase hc ha (hv.trans hstart))
  · rintro a w rfl rfl
    cases hexp
    exact (Stages.writeTransaction a w).step_of_second_check hi hc rfl ha hv
  · rintro a rfl rfl
    cases hexp
    exact (Stages.readTransaction a).step_of_second_check hi hc rfl ha hv

end Sys2Proof.Machine
end

section
/-! PROOFS. The primitives leave STOP to the caller (R81): none of their micro-steps asserts it, and they are in
Faulted when they return a fault. -/

namespace Sys2Proof.Machine

/-- A primitive between micro-steps: `k` STOPs have been asserted so far, it is not in Faulted while it runs, and it has returned a fault if it is
there afterwards. -/
structure PrimitiveRun (i : Instr) (k : Nat) (s : State) : Prop where
  stops : countAsserts .stop s.hist = k
  running : ∀ c, s.cur = some c → c.cmd = i ∧ s.fsm ≠ .faulted
  returned : s.cur = none → ∃ r, s.res = some r ∧ (resultFault r ≠ 0 ↔ s.fsm = .faulted)

theorem countAsserts_append (w : ControlWord) (l l' : List Event) : countAsserts w (l ++ l') = countAsserts w l + countAsserts w l' :=
  List.count_append

section
variable {i : Instr} {k : Nat}

theorem primitiveRun_goTo {c : Cur} {s : State} (hs : countAsserts .stop s.hist = k) (hf : s.fsm ≠ .faulted) (hcmd : c.cmd = i)
    (n : Nat) : PrimitiveRun i k (s.goTo c n) where
  stops := hs
  running c' hc := by cases hc; exact ⟨hcmd, hf⟩
  returned hc := by cases hc

theorem primitiveRun_finish {s : State} (hs : countAsserts .stop s.hist = k) (hf : s.fsm ≠ .faulted) (b : Byte) :
    PrimitiveRun i k (s.finish none b) where
  stops := hs
  running c hc := by cases hc
  returned _ := ⟨_, rfl, by simp [hf]⟩

theorem primitiveRun_raiseBusFault {c : Cur} {s : State} (hs : countAsserts .stop s.hist = k) (hp : closingStop c.cmd = none)
    (f : BusFault) : PrimitiveRun i k (s.raiseBusFault f c) := by
  rw [State.raiseBusFault_primitive hp]
  exact ⟨hs, fun c hc => (by cases hc), fun _ => ⟨_, rfl, by simpa using f.code_ne_zero⟩⟩

variable {c : Cur} {s : State} (hrun : PrimitiveRun i k s) (hc : s.cur = some c) (hp : closingStop i = none)
include hrun

/-- Accesses other than the STOP word keep the count. -/
theorem PrimitiveRun.stops_append {e : List Event} (he : countAsserts .stop e = 0) : countAsserts .stop (s.hist ++ e) = k := by
  rw [countAsserts_append, hrun.stops, he, Nat.add_zero]

include hc

/-- A micro-step that makes other accesses than the STOP word and goes on. -/
theorem PrimitiveRun.goes_on {t : State} {e : List Event} {n : Nat} (ht : t.hist = s.hist ++ e) (he : countAsserts .stop e = 0)
    (hf : t.fsm ≠ .faulted) : (Micro.go (t.goTo c n)).Leaves (PrimitiveRun i k) :=
  primitiveRun_goTo (ht ▸ hrun.stops_append he) hf (hrun.running c hc).1 n

include hp

/-- A wait and its check, if what follows a passed check is right. -/
theorem PrimitiveRun.leaves_awaitAndCheck {exp : Byte} {kind : BusFault} {f : State → State}
    (hf : ∀ t, countAsserts .stop t.hist = k → t.fsm ≠ .faulted → PrimitiveRun i k (f t)) :
    (awaitAndCheck exp kind c f s).Leaves (PrimitiveRun i k) := by
  obtain ⟨hcmd, hfsm⟩ := hrun.running c hc
  obtain ⟨x, b, -, hm⟩ | ⟨x, v, b, -, -, hm⟩ | ⟨x, v, b, -, -, hm⟩ :=
    awaitAndCheck_cases (rfl : awaitAndCheck exp kind c f s = _) <;> rw [hm]
  · exact ⟨hrun.stops_append rfl, hrun.running, fun h => by cases hc.symm.trans h⟩
  · exact hf _ (hrun.stops_append rfl) hfsm
  · exact primitiveRun_raiseBusFault (hrun.stops_append rfl) (hcmd ▸ hp) _

theorem PrimitiveRun.leaves_startPhase {a : Addr} {d : Direction} {seq : Nat} {f : State → State}
    (hf : ∀ t, countAsserts .stop t.hist = k → t.fsm ≠ .faulted → PrimitiveRun i k (f t)) :
    (startPhase a d seq c f s).Leaves (PrimitiveRun i k) := by
  obtain ⟨hcmd, hfsm⟩ := hrun.running c hc
  unfold startPhase
  split
  · exact hrun.goes_on hc rfl rfl hfsm
  · exact hrun.leaves_awaitAndCheck hc hp fun t ht _ => primitiveRun_goTo (s := t.withFsm .started) ht (by simp) hcmd 3
  · exact hrun.goes_on hc rfl rfl hfsm
  · exact hrun.goes_on hc rfl rfl hfsm
  · exact hrun.leaves_awaitAndCheck hc hp fun t ht _ => hf (t.withFsm .addressSent) ht (by simp)
  · trivial

theorem PrimitiveRun.leaves_writePhase {w : Byte} {base seq : Nat} {f : State → State}
    (hf : ∀ t, countAsserts .stop t.hist = k → t.fsm ≠ .faulted → PrimitiveRun i k (f t)) :
    (writePhase w base seq c f s).Leaves (PrimitiveRun i k) := by
  obtain ⟨-, hfsm⟩ := hrun.running c hc
  unfold writePhase
  split
  · exact hrun.goes_on hc rfl rfl (by simp)
  · exact hrun.goes_on hc rfl rfl hfsm
  · exact hrun.leaves_awaitAndCheck hc hp hf
  · trivial

theorem PrimitiveRun.leaves_readPhase {base seq : Nat} {f : State → State}
    (hf : ∀ t, countAsserts .stop t.hist = k → t.fsm ≠ .faulted → PrimitiveRun i k (f t)) :
    (readPhase base seq c f s).Leaves (PrimitiveRun i k) := by
  obtain ⟨hcmd, hfsm⟩ := hrun.running c hc
  unfold readPhase
  split
  · exact hrun.goes_on hc rfl rfl (by simp)
  · exact hrun.goes_on hc rfl rfl hfsm
  · exact hrun.leaves_awaitAndCheck hc hp fun t ht hft => primitiveRun_goTo ht hft hcmd _
  · exact hf s.readData (hrun.stops_append rfl) hfsm
  · trivial

end

/-- The primitives with a check (R81). -/
def IsCheckedPrimitive (i : Instr) : Prop := (∃ a d, i = .start a d) ∨ (∃ b, i = .writeByte b) ∨ i = .readByte

section
variable {i : Instr} (hi : IsCheckedPrimitive i)
include hi

theorem IsCheckedPrimitive.isCommand : i.isCommand = true := by
  obtain ⟨a, d, rfl⟩ | ⟨b, rfl⟩ | rfl := hi <;> rfl

/-- Every micro-step of the three keeps the count of STOPs. -/
theorem IsCheckedPrimitive.microStep_keeps {k : Nat} {s : State} {c : Cur} (hrun : PrimitiveRun i k s) (hc : s.cur = some c) :
    (microStep c s).Leaves (PrimitiveRun i k) := by
  obtain ⟨hcmd, -⟩ := hrun.running c hc
  unfold microStep
  obtain ⟨a, d, rfl⟩ | ⟨b, rfl⟩ | rfl := hi <;> simp only [hcmd]
  · exact hrun.leaves_startPhase hc rfl fun t ht hf => primitiveRun_finish ht hf _
  · exact hrun.leaves_writePhase hc rfl fun t ht hf => primitiveRun_finish ht hf _
  · exact hrun.leaves_readPhase hc rfl fun t ht hf => primitiveRun_finish ht hf _

/-- No STOP in what a run of one of the three adds to the history. -/
theorem IsCheckedPrimitive.runToWait_outcome {s t : State} {n : Nat} {c : Cur} (hc : s.cur = some c) (hcmd : c.cmd = i) (hf : s.fsm ≠ .faulted)
    (h : runToWait n s = .next t) :
    ∃ e, t.hist = s.hist ++ e ∧ countAsserts .stop e = 0 ∧
      (t.cur = none → ∃ r, t.res = some r ∧ (resultFault r ≠ 0 ↔ t.fsm = .faulted)) := by
  have hstart : PrimitiveRun i (countAsserts .stop s.hist) s :=
    ⟨rfl, fun c' hc' => by cases hc.symm.trans hc'; exact ⟨hcmd, hf⟩, fun hn => by cases hc.symm.trans hn⟩
  have hend := runToWait_keeps (fun _ _ => hi.microStep_keeps) n s t hstart h
  obtain ⟨e, he, -⟩ := (frame_runToWait h).hist
  refine ⟨e, he, ?_, hend.returned⟩
  have hcount := hend.stops
  rw [he, countAsserts_append] at hcount
  omega

/-- Neither of the three is admitted in Faulted (R97), nor waits there (R104). -/
theorem IsCheckedPrimitive.not_faulted {s : State} (h : Admitted i s ∨ ∃ n, waitsAt i n s.fsm) : s.fsm ≠ .faulted := by
  intro hf
  obtain ⟨a, d, rfl⟩ | ⟨b, rfl⟩ | rfl := hi <;> simp [Admitted, waitsAt, hf] at h

end

/-- Settles O40: issued or gone on with after a wait, the command runs micro-steps of its own, from a state that is not Faulted. -/
theorem primitivesLeaveStopToCaller : Obligations.PrimitivesLeaveStopToCaller := by
  rintro i s t hi (h | ⟨hinv, ⟨c, hc, rfl⟩, hin, h⟩)
  · have hp : IsCheckedPrimitive i := hi
    have hadm := admitted_of_next hp.isCommand h
    have hf : s.fsm ≠ .faulted := hp.not_faulted (.inl hadm)
    rw [exec_eq_runToWait hp.isCommand hadm] at h
    exact hp.runToWait_outcome (s := { s with cur := some ⟨i, 1, none, 0x00⟩, res := none }) rfl rfl hf h
  · have hp : IsCheckedPrimitive c.cmd := hi
    rw [step_of_no_inputs hin] at h
    exact hp.runToWait_outcome hc rfl (hp.not_faulted (.inr ⟨_, (hinv.inFlight c hc).1⟩)) h

end Sys2Proof.Machine
end

section
/-! PROOFS. A data command in a transaction of the other direction, against RefBus (R86, R120, R162). -/

namespace Sys2Proof.Machine

/-- What RefBus does with `CW_CLOCK` is its byte action, whatever it still had pending (R118). -/
theorem RefBusState.control_clock (cfg : RefBusConfig) (dr : Byte) (h : RefBusState) :
    h.control cfg 0xC4 dr = ({ h with flag := false, pend := none } : RefBusState).byteAction cfg 0xC4 dr := by
  simp [RefBusState.control]

/-- An immediate RefBus answers a data phase that is clocked with the code of its byte action (R118, R120, R122). -/
theorem Bus.answers_clockByte {b : Bus} {cfg : RefBusConfig} {h h' : RefBusState} {w s d : Byte} (hb : b.env = .refBus cfg h)
    (hact : ({ h with flag := false, pend := none } : RefBusState).byteAction cfg 0xC4 w = h') (hp : h'.pend = some ⟨s, d, 0⟩) :
    ∃ x b', ((b.write .dr w).write .cr 0xC4).Answers x ((s &&& 0xF8) ||| cfg.srLow.setWidth 8) b' ∧
      b'.isRefBus cfg { h' with flag := true, pend := none } := by
  have hstaged : (b.write .dr w).env = .refBus cfg h := by rw [Bus.write_refBus hb .dr (by decide)]; exact hb
  have hdr : (b.write .dr w).ctl.dr = w := by rw [Bus.write_refBus hb .dr (by decide)]; rfl
  exact ⟨_, _, Bus.answers_control hstaged (by rw [hdr, RefBusState.control_clock]; exact hact) hp, rfl⟩

/-- RefBus acknowledges a byte it is sent and stores it (R120). -/
theorem RefBusState.byteAction_of_addrW {cfg : RefBusConfig} {h : RefBusState} (hphase : h.phase = .addrW) (harb : cfg.arbLose = .never)
    (hnack : cfg.nackData = false) (hdead : cfg.dead = false) (w dr : Byte) :
    h.byteAction cfg w dr = { h with
      devReg := dr, wire := h.wire ++ [.sent dr true], pend := some ⟨cfg.st.dataTxAck, dr, cfg.pollDelay⟩ } := by
  simp [RefBusState.byteAction, RefBusState.writeAction, RefBusState.result, RefBusState.put, hphase, harb, hnack, hdead]

/-- RefBus sends its byte, which a control word with `EA` acknowledges (R21, R120). -/
theorem RefBusState.byteAction_of_addrR {cfg : RefBusConfig} {h : RefBusState} {w : Byte} (hphase : h.phase = .addrR)
    (harb : cfg.arbLose = .never) (hfail : cfg.failRead = false) (hdead : cfg.dead = false) (hw : w.getLsbD 6 = true) (dr : Byte) :
    h.byteAction cfg w dr = { h with
      wire := h.wire ++ [.received h.devReg true], pend := some ⟨cfg.st.dataRxAck, h.devReg, cfg.pollDelay⟩ } := by
  simp only [RefBusState.byteAction, RefBusState.readAction, hphase, harb, hfail, hw]
  simp [RefBusState.result, RefBusState.put, hdead, hphase]

/-- An expected code is the status code whatever low bits RefBus shows with it (R22, R122). -/
theorem statusCode_of_expected {t : StatusTable} {code : Byte} (ht : t.wellFormed = true) (hc : code ∈ t.expected) (l : BitVec 3) :
    statusCode ((code &&& 0xF8) ||| l.setWidth 8) = code :=
  statusCode_refBus code l (StatusTable.lowBits ht code (List.mem_append_left _ hc))

/-- An expected code in the wrong phase is the fault of that phase: it is not `ST_ARB_LOST` (R5, R135). -/
theorem phaseFault_of_expected {t : StatusTable} {code : Byte} (ht : t.wellFormed = true) (hc : code ∈ t.expected) (kind : BusFault) :
    phaseFault t code kind = kind :=
  if_neg (StatusTable.expected_ne_arbLost ht code hc)

/-- Settles O59: RefBus acknowledges the phase of its own direction, and that code is not the one the command expects. -/
theorem refBusDirectionMismatch : Obligations.RefBusDirectionMismatch := by
  intro data s cfg h hwf hbus hst hne hdead hdelay harb
  refine ⟨fun hadm hphase hnack => ?_, fun hadm hphase hfail => ?_⟩
  · have hexp : s.cfg.status.dataTxAck ∈ s.cfg.status.expected := by simp [StatusTable.expected]
    have hcode := statusCode_of_expected hwf hexp cfg.srLow
    have hact := RefBusState.byteAction_of_addrW (h := { h with flag := false, pend := none }) hphase harb hnack hdead 0xC4 0x00
    rw [hst, hdelay] at hact
    obtain ⟨x, b, ha, hb⟩ := Bus.answers_clockByte hbus hact rfl
    refine ⟨_, _, (((readByteOutcomes s).2 hadm).2 x _ b ha).1 (by rwa [hcode]), ?_, rfl, hb, rfl, rfl⟩
    rw [hcode, phaseFault_of_expected hwf hexp]
  · have hexp : s.cfg.status.dataRxAck ∈ s.cfg.status.expected := by simp [StatusTable.expected]
    have hcode := statusCode_of_expected hwf hexp cfg.srLow
    have hact := RefBusState.byteAction_of_addrR (h := { h with flag := false, pend := none }) (w := 0xC4) hphase harb hfail hdead
      (by decide) data
    rw [hst, hdelay] at hact
    obtain ⟨x, b, ha, hb⟩ := Bus.answers_clockByte hbus hact rfl
    refine ⟨_, _, (((writeByteOutcomes data s).2 hadm).2 x _ b ha).1 (by rw [hcode]; exact hne.symm), ?_, rfl, hb, rfl, rfl⟩
    rw [hcode, phaseFault_of_expected hwf hexp]

end Sys2Proof.Machine
end

section
/-! PROOFS. The two composites as they are issued (R90, R91, R92): START to its two waits, the data phase to the third, and STOP on every path
that returns. -/

namespace Sys2Proof.Machine

/-- The two composites, with the address and the direction of their address phase and the byte their data phase stages (R90, R91). -/
inductive Composite : Instr → Addr → Direction → Byte → Prop
  | writeTransaction (a : Addr) (w : Byte) : Composite (.writeTransaction a w) a .write w
  | readTransaction (a : Addr) : Composite (.readTransaction a) a .read 0x00

/-- They are the commands with a closing STOP (R90, R91). -/
theorem exists_composite {i : Instr} (h : closingStop i ≠ none) : ∃ a d w, Composite i a d w := by
  cases i with
  | writeTransaction a w => exact ⟨a, .write, w, .writeTransaction a w⟩
  | readTransaction a => exact ⟨a, .read, 0x00, .readTransaction a⟩
  | _ => exact (h rfl).elim

/-! ### From wait to wait -/

section
variable {i : Instr} {a : Addr} {d : Direction} {w : Byte} (h : Composite i a d w)
include h

theorem Composite.addresses : Addresses i a d := by
  cases h with
  | writeTransaction => exact .writeTransaction a w
  | readTransaction => exact .readTransaction a

theorem Composite.stages : Stages i w 5 := by
  cases h with
  | writeTransaction => exact .writeTransaction a w
  | readTransaction => exact .readTransaction a

theorem Composite.isCommand : i.isCommand = true := by cases h <;> rfl

theorem Composite.exists_closingStop : ∃ m, closingStop i = some m := by cases h <;> exact ⟨_, rfl⟩

/-- The second check passed, the data byte is clocked (R90, R91). -/
theorem Composite.runToWait_dataPhase {n : Nat} {s : State} {flt : Option BusFault} {ret y u : Byte} {b : Bus}
    (hc : s.cur = some ⟨i, 5, flt, ret⟩) (ha : s.bus.Answers y u b) (hu : statusCode u = addrAck s.cfg.status d) :
    runToWait (n + 3) s = runToWait n { s with
      fsm := .dataPhase, txb := w, cur := some ⟨i, 8, flt, ret⟩, bus := (b.write .dr w).write .cr 0xC4,
      hist := s.hist ++ [.rd .cr y, .rd .sr u, .wr .dr w, .wr .cr 0xC4] } := by
  have hm : microStep ⟨i, 5, flt, ret⟩ s = awaitAndCheck (addrAck s.cfg.status d) .addressNack ⟨i, 5, flt, ret⟩
      (fun t => (t.withFsm .addressSent).goTo ⟨i, 5, flt, ret⟩ 6) s := by cases h <;> rfl
  rw [runToWait_pass hc hm ha hu, h.stages.runToWait_dataPhase rfl]
  simp [State.goTo, State.withFsm, State.withCur]

variable {s : State} (hadm : Admitted i s)
include hadm

/-- Issued, a composite asserts START and comes to its first wait (R82). -/
theorem Composite.exec_firstWait :
    exec i s = runToWait 9 { s with
      cur := some ⟨i, 2, none, 0x00⟩, res := none, bus := s.bus.write .cr 0xA4, hist := s.hist ++ [.wr .cr 0xA4] } :=
  (exec_eq_runToWait h.isCommand hadm).trans (h.addresses.runToWait_start rfl)

variable {x v : Byte} {b : Bus} (hx : (s.bus.write .cr 0xA4).Answers x v b) (hv : statusCode v = s.cfg.status.start)
include hx hv

/-- The first check passed, it clocks the address-phase byte and comes to its second wait (R82). -/
theorem Composite.exec_secondWait :
    exec i s = runToWait 6 { s with
      fsm := .started, txb := addressByte a d, cur := some ⟨i, 5, none, 0x00⟩, res := none,
      bus := (b.write .dr (addressByte a d)).write .cr 0xC4,
      hist := s.hist ++ [.wr .cr 0xA4, .rd .cr x, .rd .sr v, .wr .dr (addressByte a d), .wr .cr 0xC4] } := by
  refine (h.exec_firstWait hadm).trans (Eq.trans (h.addresses.runToWait_addressPhase rfl hx hv) ?_)
  simp

/-- The second check passed, it clocks the data byte and comes to its third wait (R83, R84). -/
theorem Composite.exec_thirdWait {y u : Byte} {b' : Bus}
    (hy : ((b.write .dr (addressByte a d)).write .cr 0xC4).Answers y u b') (hu : statusCode u = addrAck s.cfg.status d) :
    exec i s = runToWait 3 { s with
      fsm := .dataPhase, txb := w, cur := some ⟨i, 8, none, 0x00⟩, res := none, bus := (b'.write .dr w).write .cr 0xC4,
      hist := s.hist ++ [.wr .cr 0xA4, .rd .cr x, .rd .sr v, .wr .dr (addressByte a d), .wr .cr 0xC4, .rd .cr y, .rd .sr u,
        .wr .dr w, .wr .cr 0xC4] } := by
  refine (h.exec_secondWait hadm hx hv).trans (Eq.trans (h.runToWait_dataPhase rfl hy hu) ?_)
  simp

end

/-- A failed check of a composite: its STOP is asserted, and the fault returned (R92, R139). -/
theorem runToWait_composite_fails {n m : Nat} {s : State} {c : Cur} {exp : Byte} {kind : BusFault} {f : State → State} {x v : Byte} {b : Bus}
    (hc : s.cur = some c) (hm : microStep c s = awaitAndCheck exp kind c f s) (hp : closingStop c.cmd = some m)
    (ha : s.bus.Answers x v b) (hv : statusCode v ≠ exp) :
    runToWait (n + 2) s = .next { s with
      fsm := .idle, cur := none, res := some (resultWord (some (phaseFault s.cfg.status (statusCode v) kind)) c.ret),
      bus := b.write .cr 0x94, hist := s.hist ++ [.rd .cr x, .rd .sr v, .wr .cr 0x94] } := by
  rw [runToWait_fail_composite hc hm hp ha hv, runToWait_closingStop rfl hp]
  simp [fsmAfterStop]

/-! ### The outcomes -/

/-- Settles O16: the command to each of its three waits in turn, and what the wait and its check can do there. -/
theorem writeTransactionOutcomes : Obligations.WriteTransactionOutcomes := by
  refine fun addr data s => ⟨exec_of_not_admitted rfl, fun hadm => ?_⟩
  have hcomp : Composite (.writeTransaction addr data) addr .write data := .writeTransaction addr data
  refine ⟨fun x b hb => ?_, fun x v b hx => ⟨fun hv => ?_, fun hv => ?_⟩⟩
  · rw [hcomp.exec_firstWait hadm, runToWait_busy rfl rfl hb]
    simp
  · rw [hcomp.exec_firstWait hadm, runToWait_composite_fails rfl rfl rfl hx hv]
    simp [hadm.1]
  refine ⟨fun y d hb => ?_, fun y u d hy => ⟨fun hu => ?_, fun hu => ?_⟩⟩
  · rw [hcomp.exec_secondWait hadm hx hv, runToWait_busy rfl rfl hb]
    simp
  · rw [hcomp.exec_secondWait hadm hx hv, runToWait_composite_fails rfl rfl rfl hy hu]
    simp [hadm.1]
  refine ⟨fun z e hb => ?_, fun z k e hz => ⟨fun hk => ?_, fun hk => ?_⟩⟩
  · rw [hcomp.exec_thirdWait hadm hx hv hy hu, runToWait_busy rfl rfl hb]
    simp
  · rw [hcomp.exec_thirdWait hadm hx hv hy hu, runToWait_composite_fails rfl rfl rfl hz hk]
    simp [hadm.1]
  · refine (hcomp.exec_thirdWait hadm hx hv hy hu).trans (Eq.trans (runToWait_writeTransaction_returns rfl hz rfl hk) ?_)
    simp [hadm.1, resultWord]

/-- Settles O17: the command to each of its three waits in turn, and what the wait and its check can do there. -/
theorem readTransactionOutcomes : Obligations.ReadTransactionOutcomes := by
  refine fun addr s => ⟨exec_of_not_admitted rfl, fun hadm => ?_⟩
  have hcomp : Composite (.readTransaction addr) addr .read 0x00 := .readTransaction addr
  refine ⟨fun x b hb => ?_, fun x v b hx => ⟨fun hv => ?_, fun hv => ?_⟩⟩
  · rw [hcomp.exec_firstWait hadm, runToWait_busy rfl rfl hb]
    simp
  · rw [hcomp.exec_firstWait hadm, runToWait_composite_fails rfl rfl rfl hx hv]
    simp [hadm.1]
  refine ⟨fun y d hb => ?_, fun y u d hy => ⟨fun hu => ?_, fun hu => ?_⟩⟩
  · rw [hcomp.exec_secondWait hadm hx hv, runToWait_busy rfl rfl hb]
    simp
  · rw [hcomp.exec_secondWait hadm hx hv, runToWait_composite_fails rfl rfl rfl hy hu]
    simp [hadm.1]
  refine ⟨fun z e hb => ?_, fun z k e hz => ⟨fun hk => ?_, fun hk q f hq => ?_⟩⟩
  · rw [hcomp.exec_thirdWait hadm hx hv hy hu, runToWait_busy rfl rfl hb]
    simp
  · rw [hcomp.exec_thirdWait hadm hx hv hy hu, runToWait_composite_fails rfl rfl rfl hz hk]
    simp [hadm.1]
  · refine (hcomp.exec_thirdWait hadm hx hv hy hu).trans (Eq.trans (runToWait_readTransaction_returns rfl hz rfl hk hq) ?_)
    simp [hadm.1]

end Sys2Proof.Machine
end

section
/-! PROOFS. A composite's run is a function of the bus and the configuration (R94), and asserts STOP once, last, on every path that returns (R92, R93):
both from one account of how a run ends at each of its waits. -/

namespace Sys2Proof.Machine

/-! ### How a run ends -/

/-- How a run of a command ends: what it adds to the history, and what then stands in the fields. -/
structure Ending where
  added : List Event
  fsm : Fsm
  cur : Option Cur
  res : Option ResultWord
  bus : Bus

/-- The run from `s` has come to `t` and ended so. A command still in flight may not have written `FSM` yet (R104). -/
structure Ending.Reached (E : Ending) (s t : State) : Prop where
  hist : t.hist = s.hist ++ E.added
  fsm : E.cur = none → t.fsm = E.fsm
  cur : t.cur = E.cur
  res : t.res = E.res
  bus : t.bus = E.bus

/-- STOP exactly once and last when the command has returned, with Complete after success and Idle after a fault; no STOP while it is in
flight (R92, R93). -/
structure Ending.StopsOnce (E : Ending) : Prop where
  returned : E.cur = none → countAsserts .stop E.added = 1 ∧ E.added.getLast? = some (.wr .cr 0x94) ∧
    ∃ r, E.res = some r ∧ (resultFault r = 0 → E.fsm = .complete) ∧ (resultFault r ≠ 0 → E.fsm = .idle)
  inFlight : E.cur ≠ none → countAsserts .stop E.added = 0

/-- The same ending, with the accesses `e` before it. -/
def Ending.after (e : List Event) (E : Ending) : Ending := { E with added := e ++ E.added }

theorem Ending.Reached.after {E : Ending} {e : List Event} {s u t : State} (hu : u.hist = s.hist ++ e) (h : E.Reached u t) :
    (E.after e).Reached s t where
  hist := by rw [h.hist, hu, List.append_assoc]; rfl
  fsm := h.fsm
  cur := h.cur
  res := h.res
  bus := h.bus

theorem Ending.StopsOnce.after {E : Ending} {e : List Event} (he : countAsserts .stop e = 0) (h : E.StopsOnce) : (E.after e).StopsOnce where
  returned hn := by
    obtain ⟨hcount, hlast, hres⟩ := h.returned hn
    exact ⟨by rw [Ending.after, countAsserts_append, he, hcount], by simp [Ending.after, hlast], hres⟩
  inFlight hn := by rw [Ending.after, countAsserts_append, he, h.inFlight hn]

/-- A poll that sees the flag clear, with the command in flight (R75). -/
theorem stopsOnce_polled (x : Byte) (f : Fsm) (c : Cur) (r : Option ResultWord) (b : Bus) : Ending.StopsOnce ⟨[.rd .cr x], f, some c, r, b⟩ where
  returned h := by cases h
  inFlight _ := rfl

theorem stopsOnce_succeeded {e : List Event} (he : countAsserts .stop e = 0) (ret : Byte) (b : Bus) :
    Ending.StopsOnce ⟨e ++ [.wr .cr 0x94], .complete, none, some (resultWord none ret), b⟩ where
  returned _ := ⟨by rw [countAsserts_append, he]; rfl, List.getLast?_concat, _, rfl, by simp, by simp⟩
  inFlight h := (h rfl).elim

theorem stopsOnce_failed {e : List Event} (he : countAsserts .stop e = 0) (k : BusFault) (ret : Byte) (b : Bus) :
    Ending.StopsOnce ⟨e ++ [.wr .cr 0x94], .idle, none, some (resultWord (some k) ret), b⟩ where
  returned _ := ⟨by rw [countAsserts_append, he]; rfl, List.getLast?_concat, _, rfl, by simpa using k.code_ne_zero, by simp⟩
  inFlight h := (h rfl).elim

/-! ### From each wait -/

/-- A command stands at micro-step `k`, one of its waits, with no fault pending, nothing to return yet and no result word, against the bus `b`. -/
structure AtWait (i : Instr) (k : Nat) (b : Bus) (cfg : Config) (s : State) : Prop where
  cur : s.cur = some ⟨i, k, none, 0x00⟩
  wait : waitsAt i k s.fsm
  res : s.res = none
  bus : s.bus = b
  cfg : s.cfg = cfg

/-- From every state at the wait, `n` micro-steps end in one and the same way, with STOP asserted once if the command has returned. -/
def EndsAlike (n : Nat) (i : Instr) (k : Nat) (b : Bus) (cfg : Config) : Prop :=
  ∃ E : Ending, E.StopsOnce ∧ ∀ s, AtWait i k b cfg s → ∃ t, runToWait n s = .next t ∧ E.Reached s t

/-- A run that comes to a later wait ends as a run from there. -/
theorem EndsAlike.of_run {n m k j : Nat} {i : Instr} {b b' : Bus} {cfg : Config} {e : List Event} (h : EndsAlike m i j b' cfg)
    (he : countAsserts .stop e = 0)
    (hrun : ∀ s, AtWait i k b cfg s → ∃ u, runToWait n s = runToWait m u ∧ u.hist = s.hist ++ e ∧ AtWait i j b' cfg u) :
    EndsAlike n i k b cfg := by
  obtain ⟨E, hE, hreach⟩ := h
  refine ⟨E.after e, hE.after he, fun s hs => ?_⟩
  obtain ⟨u, hrun, hu, hwait⟩ := hrun s hs
  obtain ⟨t, ht, hr⟩ := hreach u hwait
  exact ⟨t, hrun.trans ht, hr.after hu⟩

section
variable {n : Nat} {i : Instr} {a : Addr} {d : Direction} {w : Byte} {b : Bus} {cfg : Config} (h : Composite i a d w)
include h

/-- A wait and its check, if a run that passes the check ends as it should. -/
theorem Composite.endsAlike_of_pass {k : Nat} {exp : Byte} {kind : BusFault} (hexp : expectedAt cfg.status i k = some (exp, kind))
    (hpass : ∀ x v b', b.Answers x v b' → statusCode v = exp → EndsAlike (n + 2) i k b cfg) : EndsAlike (n + 2) i k b cfg := by
  have hcheck : ∀ s, AtWait i k b cfg s → ∃ f, microStep ⟨i, k, none, 0x00⟩ s = awaitAndCheck exp kind ⟨i, k, none, 0x00⟩ f s := by
    intro s hs
    obtain ⟨exp', kind', f, hexp', hm⟩ := microStep_of_waitsAt (c := ⟨i, k, none, 0x00⟩) hs.wait s
    rw [hs.cfg] at hexp'
    cases hexp.symm.trans hexp'
    exact ⟨f, hm⟩
  obtain ⟨m, hstop⟩ := h.exists_closingStop
  rcases b.busy_or_answers with ⟨x, b', hb⟩ | ⟨x, v, b', ha⟩
  · refine ⟨_, stopsOnce_polled x .idle ⟨i, k, none, 0x00⟩ none b', fun s hs => ?_⟩
    obtain ⟨f, hm⟩ := hcheck s hs
    exact ⟨_, runToWait_busy hs.cur hm (hs.bus ▸ hb), rfl, fun hn => (by cases hn), hs.cur, hs.res, rfl⟩
  by_cases hv : statusCode v = exp
  · exact hpass x v b' ha hv
  · refine ⟨_, stopsOnce_failed (e := [.rd .cr x, .rd .sr v]) rfl (phaseFault cfg.status (statusCode v) kind) 0x00 (b'.write .cr 0x94),
      fun s hs => ?_⟩
    obtain ⟨f, hm⟩ := hcheck s hs
    exact ⟨_, runToWait_composite_fails hs.cur hm hstop (hs.bus ▸ ha) hv, rfl, fun _ => rfl, rfl, by simp [hs.cfg], rfl⟩

/-- The third wait: passed, the command returns (R90, R91). -/
theorem Composite.endsAlike_thirdWait : EndsAlike (n + 3) i 8 b cfg := by
  cases h with
  | writeTransaction =>
    refine (Composite.writeTransaction a w).endsAlike_of_pass rfl fun x v b' ha hv =>
      ⟨_, stopsOnce_succeeded (e := [.rd .cr x, .rd .sr v]) rfl 0x00 (b'.write .cr 0x94), fun s hs => ?_⟩
    have hfsm : s.fsm = .dataPhase := by simpa [waitsAt] using hs.wait
    exact ⟨_, runToWait_writeTransaction_returns hs.cur (hs.bus ▸ ha) hfsm (hs.cfg ▸ hv), rfl, fun _ => rfl, rfl, rfl, rfl⟩
  | readTransaction =>
    refine (Composite.readTransaction a).endsAlike_of_pass rfl fun x v b' ha hv =>
      ⟨_, stopsOnce_succeeded (e := [.rd .cr x, .rd .sr v, .rd .dr (b'.read .dr).1]) rfl (b'.read .dr).1 ((b'.read .dr).2.write .cr 0x94),
        fun s hs => ?_⟩
    have hfsm : s.fsm = .dataPhase := by simpa [waitsAt] using hs.wait
    exact ⟨_, runToWait_readTransaction_returns hs.cur (hs.bus ▸ ha) hfsm (hs.cfg ▸ hv) rfl, rfl, fun _ => rfl, rfl, rfl, rfl⟩

/-- The second wait: passed, the run goes on to the third (R90, R91). -/
theorem Composite.endsAlike_secondWait : EndsAlike (n + 6) i 5 b cfg := by
  have hexp : expectedAt cfg.status i 5 = some (addrAck cfg.status d, .addressNack) := by cases h <;> rfl
  refine h.endsAlike_of_pass hexp fun y u b' hy hu => ?_
  refine (h.endsAlike_thirdWait (n := n) (b := (b'.write .dr w).write .cr 0xC4)).of_run
    (e := [.rd .cr y, .rd .sr u, .wr .dr w, .wr .cr 0xC4]) rfl fun s hs => ?_
  have hwait : waitsAt i 8 .dataPhase := by cases h <;> simp [waitsAt]
  exact ⟨_, h.runToWait_dataPhase hs.cur (hs.bus ▸ hy) (hs.cfg ▸ hu), rfl, rfl, hwait, hs.res, rfl, hs.cfg⟩

/-- The first wait: passed, the run goes on to the second (R82). -/
theorem Composite.endsAlike_firstWait : EndsAlike (n + 9) i 2 b cfg := by
  have hexp : expectedAt cfg.status i 2 = some (cfg.status.start, .startFailed) := by cases h <;> rfl
  refine h.endsAlike_of_pass hexp fun x v b' hx hv => ?_
  refine (h.endsAlike_secondWait (n := n) (b := (b'.write .dr (addressByte a d)).write .cr 0xC4)).of_run
    (e := [.rd .cr x, .rd .sr v, .wr .dr (addressByte a d), .wr .cr 0xC4]) rfl fun s hs => ?_
  have hwait : waitsAt i 5 .started := by cases h <;> simp [waitsAt]
  exact ⟨_, h.addresses.runToWait_addressPhase hs.cur (hs.bus ▸ hx) (hs.cfg ▸ hv), rfl, rfl, hwait, hs.res, rfl, hs.cfg⟩

/-! ### Issued, and gone on with -/

/-- Issued, a composite ends the same from every state that admits it, against one bus with one configuration (R94). -/
theorem Composite.exec_endsAlike (b : Bus) (cfg : Config) :
    ∃ E : Ending, E.StopsOnce ∧ ∀ s, Admitted i s → s.bus = b → s.cfg = cfg → ∃ t, exec i s = .next t ∧ E.Reached s t := by
  obtain ⟨E, hE, hreach⟩ := h.endsAlike_firstWait (n := 0) (b := b.write .cr 0xA4) (cfg := cfg)
  refine ⟨E.after [.wr .cr 0xA4], hE.after rfl, fun s hadm hb hcfg => ?_⟩
  have hwait : waitsAt i 2 s.fsm := by
    obtain ⟨-, -, hfsm⟩ := hadm
    cases h <;> exact .inl ⟨rfl, hfsm⟩
  have hissued : AtWait i 2 (b.write .cr 0xA4) cfg { s with
      cur := some ⟨i, 2, none, 0x00⟩, res := none, bus := s.bus.write .cr 0xA4, hist := s.hist ++ [.wr .cr 0xA4] } :=
    ⟨rfl, hwait, rfl, congrArg (Bus.write .cr 0xA4) hb, hcfg⟩
  obtain ⟨t, ht, hr⟩ := hreach _ hissued
  exact ⟨t, (h.exec_firstWait hadm).trans ht, hr.after rfl⟩

/-- A composite gone on with after a wait (R103). -/
theorem Composite.resume_ends {s : State} {c : Cur} (hinv : EngineInv s) (hc : s.cur = some c) (hcmd : c.cmd = i) :
    ∃ (E : Ending) (t : State), E.StopsOnce ∧ resume s = .next t ∧ E.Reached s t := by
  obtain ⟨cmd, k, flt, ret⟩ := c
  obtain ⟨hwait, hflt, hret⟩ := hinv.inFlight _ hc
  dsimp only at hcmd hwait hflt hret
  subst hcmd hflt hret
  have hk : k = 2 ∨ k = 5 ∨ k = 8 := by
    have hcases := hwait
    cases h <;> simp only [waitsAt] at hcases <;> omega
  have hend : EndsAlike 10 cmd k s.bus s.cfg := by
    obtain rfl | rfl | rfl := hk
    exacts [h.endsAlike_firstWait, h.endsAlike_secondWait, h.endsAlike_thirdWait]
  obtain ⟨E, hE, hreach⟩ := hend
  obtain ⟨t, ht, hr⟩ := hreach s ⟨hc, hwait, hinv.noResult (by simp [hc]), rfl, rfl⟩
  exact ⟨E, t, hE, ht, hr⟩

end

/-- What an ending that stops once says of the states of the run. -/
theorem Ending.Reached.stops_once {E : Ending} {s t : State} (hE : E.StopsOnce) (hr : E.Reached s t) :
    ∃ e, t.hist = s.hist ++ e ∧
      (t.cur = none → countAsserts .stop e = 1 ∧ e.getLast? = some (.wr .cr 0x94) ∧
        ∃ r, t.res = some r ∧ (resultFault r = 0 → t.fsm = .complete) ∧ (resultFault r ≠ 0 → t.fsm = .idle)) ∧
      (t.cur ≠ none → countAsserts .stop e = 0) := by
  rw [hr.cur, hr.res]
  exact ⟨E.added, hr.hist, fun hn => hr.fsm hn ▸ hE.returned hn, hE.inFlight⟩

/-- Settles O39: issued or gone on with, the run has an ending with STOP once. -/
theorem compositesStopExactlyOnce : Obligations.CompositesStopExactlyOnce := by
  rintro i s t hi (hexec | ⟨hinv, ⟨c, hc, hcmd⟩, hin, hstep⟩)
  · obtain ⟨a, d, w, h⟩ := exists_composite hi
    obtain ⟨E, hE, hreach⟩ := h.exec_endsAlike s.bus s.cfg
    obtain ⟨t', ht', hr⟩ := hreach s (admitted_of_next h.isCommand hexec) rfl rfl
    cases hexec.symm.trans ht'
    exact hr.stops_once hE
  · obtain ⟨a, d, w, h⟩ := exists_composite hi
    obtain ⟨E, t', hE, ht', hr⟩ := h.resume_ends hinv hc hcmd
    cases hstep.symm.trans ((step_of_no_inputs hin).trans ht')
    exact hr.stops_once hE

/-- Settles O43: both runs come to the one ending of that bus and configuration. -/
theorem compositesLeakNoState : Obligations.CompositesLeakNoState := by
  intro i s s' hi hadm hadm' hbus hcfg
  obtain ⟨a, d, w, h⟩ := exists_composite hi
  obtain ⟨E, -, hreach⟩ := h.exec_endsAlike s.bus s.cfg
  obtain ⟨t, ht, hr⟩ := hreach s hadm rfl rfl
  obtain ⟨t', ht', hr'⟩ := hreach s' hadm' hbus.symm hcfg.symm
  refine ⟨t, t', E.added, ht, ht', hr.hist, hr'.hist, hr.res.trans hr'.res.symm, hr.bus.trans hr'.bus.symm, hr.cur.trans hr'.cur.symm,
    fun hn => ?_⟩
  have hE : E.cur = none := hr.cur.symm.trans hn
  exact (hr.fsm hE).trans (hr'.fsm hE).symm

end Sys2Proof.Machine
end

section
/-! SUPPORT. The micro-steps as a transition system: which accesses a command makes at each of its micro-steps, and where it then stands (R80 to R85,
R90, R91, R139). The invariants of FSM and of the history are facts about its transitions. -/

namespace Sys2Proof.Machine

/-! ### The transitions -/

/-- One micro-step of a command that goes on or returns: from its context and `FSM`, by the accesses it makes, to the new `FSM` and the context that
is left, `none` after its return. -/
inductive Transition (t : StatusTable) : Cur → Fsm → List Event → Fsm → Option Cur → Prop
  | bitRate {flt ret f} (v : Byte) : Transition t ⟨.init, 1, flt, ret⟩ f [.wr .brr v] f (some ⟨.init, 2, flt, ret⟩)
  | prescaler {flt ret f} : Transition t ⟨.init, 2, flt, ret⟩ f [.wr .psr prescaler] f none
  | startAsserted {i a d flt ret f} (h : Addresses i a d) :
      Transition t ⟨i, 1, flt, ret⟩ f [.wr .cr ControlWord.start.byte] f (some ⟨i, 2, flt, ret⟩)
  | startSent {i a d flt ret f x v} (h : Addresses i a d) (hv : statusCode v = t.start) :
      Transition t ⟨i, 2, flt, ret⟩ f [.rd .cr x, .rd .sr v] .started (some ⟨i, 3, flt, ret⟩)
  | addressStaged {i a d flt ret f} (h : Addresses i a d) :
      Transition t ⟨i, 3, flt, ret⟩ f [.wr .dr (addressByte a d)] f (some ⟨i, 4, flt, ret⟩)
  | addressClocked {i a d flt ret f} (h : Addresses i a d) :
      Transition t ⟨i, 4, flt, ret⟩ f [.wr .cr ControlWord.clock.byte] f (some ⟨i, 5, flt, ret⟩)
  | startReturns {a d flt ret f x v} (hv : statusCode v = addrAck t d) :
      Transition t ⟨.start a d, 5, flt, ret⟩ f [.rd .cr x, .rd .sr v] .addressSent none
  | addressAcked {i a d w flt ret f x v} (h : Composite i a d w) (hv : statusCode v = addrAck t d) :
      Transition t ⟨i, 5, flt, ret⟩ f [.rd .cr x, .rd .sr v] .addressSent (some ⟨i, 6, flt, ret⟩)
  | dataStaged {i w base flt ret f} (h : Stages i w base) :
      Transition t ⟨i, base + 1, flt, ret⟩ f [.wr .dr w] .dataPhase (some ⟨i, base + 2, flt, ret⟩)
  | dataClocked {i w base flt ret f} (h : Stages i w base) :
      Transition t ⟨i, base + 2, flt, ret⟩ f [.wr .cr ControlWord.clock.byte] f (some ⟨i, base + 3, flt, ret⟩)
  | writeReturns {w flt ret f x v} (hv : statusCode v = t.dataTxAck) :
      Transition t ⟨.writeByte w, 3, flt, ret⟩ f [.rd .cr x, .rd .sr v] f none
  | dataAcked {i w base flt ret f x v} (h : Stages i w base) (hi : ∀ b, i ≠ .writeByte b)
      (hv : statusCode v = t.dataTxAck ∨ statusCode v = t.dataRxAck) :
      Transition t ⟨i, base + 3, flt, ret⟩ f [.rd .cr x, .rd .sr v] f (some ⟨i, base + 4, flt, ret⟩)
  | readReturns {flt ret f} (y : Byte) : Transition t ⟨.readByte, 4, flt, ret⟩ f [.rd .dr y] f none
  | byteRead {a flt ret f} (y : Byte) :
      Transition t ⟨.readTransaction a, 9, flt, ret⟩ f [.rd .dr y] f (some ⟨.readTransaction a, 10, flt, y⟩)
  | stopped {i n flt ret f} (h : (i = .stop ∧ n = 1) ∨ closingStop i = some n) :
      Transition t ⟨i, n, flt, ret⟩ f [.wr .cr ControlWord.stop.byte] (fsmAfterStop f) none
  | primitiveFails {i n flt ret f exp kind x v} (hp : closingStop i = none) (hexp : expectedAt t i n = some (exp, kind))
      (hv : statusCode v ≠ exp) : Transition t ⟨i, n, flt, ret⟩ f [.rd .cr x, .rd .sr v] .faulted none
  | compositeFails {i n m flt ret f exp kind x v} (hp : closingStop i = some m) (hexp : expectedAt t i n = some (exp, kind))
      (hv : statusCode v ≠ exp) (k : BusFault) :
      Transition t ⟨i, n, flt, ret⟩ f [.rd .cr x, .rd .sr v] .faulted (some ⟨i, m, some k, ret⟩)

/-! ### The micro-steps a command has -/

/-- The micro-steps of a command, each with the values `FSM` can have there (R97, R104); entry 0 is no micro-step. -/
def fsmTable : Instr → List (List Fsm)
  | .init => [[], [.idle, .started, .addressSent, .dataPhase, .faulted, .complete],
      [.idle, .started, .addressSent, .dataPhase, .faulted, .complete]]
  | .start _ _ => [[], [.idle, .complete], [.idle, .complete], [.started], [.started], [.started]]
  | .writeByte _ => [[], [.addressSent, .dataPhase], [.dataPhase], [.dataPhase]]
  | .readByte => [[], [.addressSent, .dataPhase], [.dataPhase], [.dataPhase], [.dataPhase]]
  | .stop => [[], [.addressSent, .dataPhase, .faulted]]
  | .writeTransaction _ _ => [[], [.idle, .complete], [.idle, .complete], [.started], [.started], [.started], [.addressSent], [.dataPhase],
      [.dataPhase], [.dataPhase, .faulted]]
  | .readTransaction _ => [[], [.idle, .complete], [.idle, .complete], [.started], [.started], [.started], [.addressSent], [.dataPhase],
      [.dataPhase], [.dataPhase], [.dataPhase, .faulted]]
  | .cwStart | .cwClock | .cwStop => []

/-- The values `FSM` can have at a micro-step, none where the command has no such micro-step. -/
def fsmsAt (i : Instr) (n : Nat) : List Fsm := (fsmTable i).getD n []

/-! ### What a micro-step gives -/

/-- The micro-step that ends INIT (R80). -/
def Cur.Configures (c : Cur) : Prop := c.cmd = .init ∧ c.seq = 2

/-- What a micro-step that went on or returned has done to the state: a transition, `INITD` set by INIT alone, and a result word at the return. -/
structure Moved (c : Cur) (s t : State) : Prop where
  transition : ∃ e, Transition s.cfg.status c s.fsm e t.fsm t.cur ∧ t.hist = s.hist ++ e
  initd : (t.initd = s.initd ∧ ¬ c.Configures) ∨ (t.initd = true ∧ c.Configures)
  result : (t.res = s.res ∧ t.cur ≠ none) ∨ (t.cur = none ∧ ∃ flt b, t.res = some (resultWord flt b))
  cfg : t.cfg = s.cfg

/-- What any micro-step gives: a transition; a poll that saw the flag clear at one of the command's waits; or the command has no such micro-step. -/
def Micro.Follows (c : Cur) (s : State) : Micro → Prop
  | .go t => Moved c s t
  | .wait t => (expectedAt s.cfg.status c.cmd c.seq).isSome = true ∧ ∃ x b, t = { s with bus := b, hist := s.hist ++ [.rd .cr x] }
  | .bad => fsmsAt c.cmd c.seq = []

/-! ### Every micro-step is a transition or a poll -/

theorem moved_goTo {c : Cur} {s u : State} {e : List Event} {n : Nat}
    (htr : Transition s.cfg.status c s.fsm e u.fsm (some { c with seq := n })) (hhist : u.hist = s.hist ++ e) (hi : c.cmd ≠ .init)
    (hinitd : u.initd = s.initd) (hres : u.res = s.res) (hcfg : u.cfg = s.cfg) : Moved c s (u.goTo c n) :=
  ⟨⟨e, htr, hhist⟩, .inl ⟨hinitd, fun h => hi h.1⟩, .inl ⟨hres, by simp⟩, hcfg⟩

theorem moved_finish {c : Cur} (s u : State) {e : List Event} (htr : Transition s.cfg.status c s.fsm e u.fsm none)
    (hhist : u.hist = s.hist ++ e) (hi : c.cmd ≠ .init) (hinitd : u.initd = s.initd) (hcfg : u.cfg = s.cfg) (flt : Option BusFault)
    (b : Byte) : Moved c s (u.finish flt b) :=
  ⟨⟨e, htr, hhist⟩, .inl ⟨hinitd, fun h => hi h.1⟩, .inr ⟨rfl, flt, b, rfl⟩, hcfg⟩

theorem Addresses.ne_init {i : Instr} {a : Addr} {d : Direction} (h : Addresses i a d) : i ≠ .init := by
  rintro rfl
  cases h

theorem Stages.ne_init {i : Instr} {w : Byte} {base : Nat} (h : Stages i w base) : i ≠ .init := by
  rintro rfl
  cases h

/-- A command with a wait is not INIT. -/
theorem ne_init_of_expectedAt {t : StatusTable} {i : Instr} {n : Nat} {p : Byte × BusFault} (h : expectedAt t i n = some p) : i ≠ .init := by
  rintro rfl
  cases h

section
variable {i : Instr} {flt : Option BusFault} {ret : Byte} {s : State}

/-- A wait and its check, if what follows a passed check is a transition. -/
theorem awaitAndCheck_follows {n : Nat} {exp : Byte} {kind : BusFault} {f : State → State}
    (hexp : expectedAt s.cfg.status i n = some (exp, kind))
    (hpass : ∀ x v b, statusCode v = exp → Moved ⟨i, n, flt, ret⟩ s (f { s with bus := b, hist := s.hist ++ [.rd .cr x, .rd .sr v] })) :
    (awaitAndCheck exp kind ⟨i, n, flt, ret⟩ f s).Follows ⟨i, n, flt, ret⟩ s := by
  obtain ⟨x, b, -, hm⟩ | ⟨x, v, b, -, hv, hm⟩ | ⟨x, v, b, -, hv, hm⟩ :=
    awaitAndCheck_cases (rfl : awaitAndCheck exp kind ⟨i, n, flt, ret⟩ f s = _) <;> rw [hm]
  · exact ⟨by rw [hexp]; rfl, x, b, rfl⟩
  · exact hpass x v b hv
  · have hc : ¬ Cur.Configures ⟨i, n, flt, ret⟩ := fun h => ne_init_of_expectedAt hexp h.1
    cases hp : closingStop i with
    | none =>
      rw [State.raiseBusFault_primitive hp]
      exact ⟨⟨_, .primitiveFails hp hexp hv, rfl⟩, .inl ⟨rfl, hc⟩, .inr ⟨rfl, _, _, rfl⟩, rfl⟩
    | some m =>
      rw [State.raiseBusFault_composite hp]
      exact ⟨⟨_, .compositeFails hp hexp hv _, rfl⟩, .inl ⟨rfl, hc⟩, .inl ⟨rfl, by simp⟩, rfl⟩

theorem initMicro_follows : ∀ n, (initMicro ⟨.init, n, flt, ret⟩ s).Follows ⟨.init, n, flt, ret⟩ s
  | 1 => ⟨⟨_, .bitRate _, rfl⟩, .inl ⟨rfl, fun h => by cases h.2⟩, .inl ⟨rfl, by simp⟩, rfl⟩
  | 2 => ⟨⟨_, .prescaler, rfl⟩, .inr ⟨rfl, rfl, rfl⟩, .inr ⟨rfl, _, _, rfl⟩, rfl⟩
  | 0 | _ + 3 => rfl

/-- The address phase, if its last check leads to a transition and the command has no other micro-steps here. -/
theorem startPhase_follows {a : Addr} {d : Direction} {f : State → State} (h : Addresses i a d) (n : Nat)
    (hdone : n = 5 → ∀ x v b, statusCode v = addrAck s.cfg.status d →
      Moved ⟨i, n, flt, ret⟩ s (f { s with fsm := .addressSent, bus := b, hist := s.hist ++ [.rd .cr x, .rd .sr v] }))
    (hbad : n = 0 ∨ 5 < n → fsmsAt i n = []) :
    (startPhase a d n ⟨i, n, flt, ret⟩ f s).Follows ⟨i, n, flt, ret⟩ s := by
  match n with
  | 1 => exact moved_goTo (.startAsserted h) rfl h.ne_init rfl rfl rfl
  | 2 =>
    refine awaitAndCheck_follows (by cases h <;> rfl) fun x v b hv => ?_
    exact moved_goTo (.startSent h hv) rfl h.ne_init rfl rfl rfl
  | 3 => exact moved_goTo (.addressStaged h) rfl h.ne_init rfl rfl rfl
  | 4 => exact moved_goTo (.addressClocked h) rfl h.ne_init rfl rfl rfl
  | 5 => exact awaitAndCheck_follows (by cases h <;> rfl) (hdone rfl)
  | 0 => exact hbad (.inl rfl)
  | k + 6 => exact hbad (.inr (by omega))

/-- The byte of a data phase is staged (R83, R84). -/
theorem Stages.moved_staged {w : Byte} {base : Nat} (h : Stages i w base) :
    Moved ⟨i, base + 1, flt, ret⟩ s (((s.withFsm .dataPhase).writeData w).goTo ⟨i, base + 1, flt, ret⟩ (base + 2)) :=
  moved_goTo (.dataStaged h) rfl h.ne_init rfl rfl rfl

/-- The byte of a data phase is clocked (R83, R84). -/
theorem Stages.moved_clocked {w : Byte} {base : Nat} (h : Stages i w base) :
    Moved ⟨i, base + 2, flt, ret⟩ s ((s.assertWord .clock).goTo ⟨i, base + 2, flt, ret⟩ (base + 3)) :=
  moved_goTo (.dataClocked h) rfl h.ne_init rfl rfl rfl

/-- The last check of a data phase passed, in a command that goes on (R84, R90, R91). -/
theorem Stages.moved_acked {w v : Byte} {base : Nat} (h : Stages i w base) (hi : ∀ b, i ≠ .writeByte b)
    (hv : statusCode v = s.cfg.status.dataTxAck ∨ statusCode v = s.cfg.status.dataRxAck) (x : Byte) (b : Bus) :
    Moved ⟨i, base + 3, flt, ret⟩ s
      (State.goTo ⟨i, base + 3, flt, ret⟩ (base + 4) { s with bus := b, hist := s.hist ++ [.rd .cr x, .rd .sr v] }) :=
  moved_goTo (.dataAcked h hi hv) rfl h.ne_init rfl rfl rfl

theorem startMicro_follows (a : Addr) (d : Direction) (n : Nat) :
    (startMicro a d ⟨.start a d, n, flt, ret⟩ s).Follows ⟨.start a d, n, flt, ret⟩ s := by
  refine startPhase_follows (.start a d) n ?_ ?_
  · rintro rfl x v b hv
    exact moved_finish s { s with fsm := .addressSent, bus := b, hist := s.hist ++ [.rd .cr x, .rd .sr v] } (.startReturns hv) rfl
      (Addresses.start a d).ne_init rfl rfl _ _
  · rintro (rfl | hn)
    · rfl
    · exact List.getD_eq_default _ _ hn

theorem writeByteMicro_follows (w : Byte) : ∀ n, (writeByteMicro w ⟨.writeByte w, n, flt, ret⟩ s).Follows ⟨.writeByte w, n, flt, ret⟩ s
  | 1 => (Stages.writeByte w).moved_staged
  | 2 => (Stages.writeByte w).moved_clocked
  | 3 => awaitAndCheck_follows rfl fun x v b hv =>
      moved_finish s { s with bus := b, hist := s.hist ++ [.rd .cr x, .rd .sr v] } (.writeReturns hv) rfl
        (Stages.writeByte w).ne_init rfl rfl _ _
  | 0 | _ + 4 => rfl

theorem readByteMicro_follows : ∀ n, (readByteMicro ⟨.readByte, n, flt, ret⟩ s).Follows ⟨.readByte, n, flt, ret⟩ s
  | 1 => Stages.readByte.moved_staged
  | 2 => Stages.readByte.moved_clocked
  | 3 => awaitAndCheck_follows rfl fun x _ b hv => Stages.readByte.moved_acked (by simp) (.inr hv) x b
  | 4 => moved_finish s s.readData (.readReturns _) rfl Stages.readByte.ne_init rfl rfl _ _
  | 0 | _ + 5 => rfl

theorem stopMicro_follows : ∀ n, (stopMicro ⟨.stop, n, flt, ret⟩ s).Follows ⟨.stop, n, flt, ret⟩ s
  | 1 => moved_finish s s.stopBody (.stopped (.inl ⟨rfl, rfl⟩)) rfl nofun rfl rfl _ _
  | 0 | _ + 2 => rfl

theorem Composite.not_writeByte {a : Addr} {d : Direction} {w : Byte} (h : Composite i a d w) (b : Byte) : i ≠ .writeByte b := by
  rintro rfl
  cases h

/-- The closing STOP of a composite. -/
theorem Composite.moved_stopped {a : Addr} {d : Direction} {w : Byte} {n : Nat} (h : Composite i a d w) (hn : closingStop i = some n) :
    Moved ⟨i, n, flt, ret⟩ s (s.stopBody.finish flt ret) :=
  moved_finish s s.stopBody (.stopped (.inr hn)) rfl h.addresses.ne_init rfl rfl _ _

/-- The address phase of a composite (R90, R91). -/
theorem Composite.startPhase_follows {a : Addr} {d : Direction} {w : Byte} (h : Composite i a d w) (n : Nat)
    (hn : 5 < n → (fsmTable i).length ≤ n) :
    (startPhase a d n ⟨i, n, flt, ret⟩ (fun t => t.goTo ⟨i, n, flt, ret⟩ 6) s).Follows ⟨i, n, flt, ret⟩ s := by
  refine Machine.startPhase_follows h.addresses n ?_ ?_
  · rintro rfl x v b hv
    exact moved_goTo (.addressAcked h hv) rfl h.addresses.ne_init rfl rfl rfl
  · rintro (rfl | h5)
    · cases h <;> rfl
    · exact List.getD_eq_default _ _ (hn h5)

theorem writeTransactionMicro_follows (a : Addr) (w : Byte) (n : Nat) :
    (writeTransactionMicro a w ⟨.writeTransaction a w, n, flt, ret⟩ s).Follows ⟨.writeTransaction a w, n, flt, ret⟩ s := by
  have h : Composite (.writeTransaction a w) a .write w := .writeTransaction a w
  match n with
  | 6 => exact h.stages.moved_staged
  | 7 => exact h.stages.moved_clocked
  | 8 => exact awaitAndCheck_follows rfl fun x _ b hv => h.stages.moved_acked h.not_writeByte (.inl hv) x b
  | 9 => exact h.moved_stopped rfl
  | 0 | 1 | 2 | 3 | 4 | 5 => exact h.startPhase_follows _ (by omega)
  | k + 10 => exact h.startPhase_follows _ fun _ => by simp [fsmTable]

theorem readTransactionMicro_follows (a : Addr) (n : Nat) :
    (readTransactionMicro a ⟨.readTransaction a, n, flt, ret⟩ s).Follows ⟨.readTransaction a, n, flt, ret⟩ s := by
  have h : Composite (.readTransaction a) a .read 0x00 := .readTransaction a
  match n with
  | 6 => exact h.stages.moved_staged
  | 7 => exact h.stages.moved_clocked
  | 8 => exact awaitAndCheck_follows rfl fun x _ b hv => h.stages.moved_acked h.not_writeByte (.inr hv) x b
  | 9 => exact ⟨⟨_, .byteRead _, rfl⟩, .inl ⟨rfl, fun hc => h.addresses.ne_init hc.1⟩, .inl ⟨rfl, by simp⟩, rfl⟩
  | 10 => exact h.moved_stopped rfl
  | 0 | 1 | 2 | 3 | 4 | 5 => exact h.startPhase_follows _ (by omega)
  | k + 11 => exact h.startPhase_follows _ fun _ => by simp [fsmTable]

end

/-- Everything a micro-step can do (R79, R103). -/
theorem microStep_follows (c : Cur) (s : State) : (microStep c s).Follows c s := by
  obtain ⟨i, n, flt, ret⟩ := c
  cases i with
  | init => exact initMicro_follows n
  | start a d => exact startMicro_follows a d n
  | writeByte w => exact writeByteMicro_follows w n
  | readByte => exact readByteMicro_follows n
  | stop => exact stopMicro_follows n
  | writeTransaction a w => exact writeTransactionMicro_follows a w n
  | readTransaction a => exact readTransactionMicro_follows a n
  | cwStart | cwClock | cwStop => rfl

theorem moved_of_go {c : Cur} {s t : State} (h : microStep c s = .go t) : Moved c s t := by
  have hf := microStep_follows c s
  rwa [h] at hf

theorem polled_of_wait {c : Cur} {s t : State} (h : microStep c s = .wait t) :
    (expectedAt s.cfg.status c.cmd c.seq).isSome = true ∧ ∃ x b, t = { s with bus := b, hist := s.hist ++ [.rd .cr x] } := by
  have hf := microStep_follows c s
  rwa [h] at hf

end Sys2Proof.Machine
end

section
/-! PROOFS. What is admitted runs (R97), and the invariant of the engine between steps (R99, R104): a command in flight is always at one of its
micro-steps, with a value of `FSM` it can have there. -/

namespace Sys2Proof.Machine

/-! ### Where a command in flight stands -/

/-- A command in flight is at one of its micro-steps, with a value of `FSM` it can have there. -/
def Stands (s : State) : Prop := ∀ c, s.cur = some c → s.fsm ∈ fsmsAt c.cmd c.seq

theorem stands_of_cur {s : State} {c : Cur} (hc : s.cur = some c) (h : s.fsm ∈ fsmsAt c.cmd c.seq) : Stands s :=
  fun c' hc' => by cases hc.symm.trans hc'; exact h

/-- The admission table is the table of micro-steps at the first of them (R97). -/
theorem Admitted.fsm_mem {i : Instr} {s : State} (h : Admitted i s) : s.fsm ∈ fsmsAt i 1 := by
  obtain ⟨-, -, hfsm⟩ := h
  cases i with
  | init => cases s.fsm <;> decide
  | cwStart | cwClock | cwStop => exact hfsm.elim
  | _ => simpa [fsmsAt, fsmTable] using hfsm

/-- The waits of R104 are in the table. -/
theorem mem_fsmsAt_of_waitsAt {i : Instr} {n : Nat} {f : Fsm} (h : waitsAt i n f) : f ∈ fsmsAt i n := by
  cases i with
  | init | stop | cwStart | cwClock | cwStop => exact h.elim
  | start => obtain ⟨rfl, rfl | rfl⟩ | ⟨rfl, rfl⟩ := h <;> simp [fsmsAt, fsmTable]
  | writeByte | readByte => obtain ⟨rfl, rfl⟩ := h; exact .head _
  | writeTransaction | readTransaction => obtain ⟨rfl, rfl | rfl⟩ | ⟨rfl, rfl⟩ | ⟨rfl, rfl⟩ := h <;> simp [fsmsAt, fsmTable]

/-- At a micro-step with a check, the values of `FSM` are those of R104. -/
theorem waitsAt_of_expectedAt {t : StatusTable} {i : Instr} {n : Nat} {f : Fsm} (h : (expectedAt t i n).isSome = true)
    (hf : f ∈ fsmsAt i n) : waitsAt i n f := by
  unfold expectedAt at h
  split at h
  all_goals simp_all [fsmsAt, fsmTable, waitsAt]

theorem le_of_mem_fsmsAt {i : Instr} {n : Nat} {f : Fsm} (h : f ∈ fsmsAt i n) : n ≤ microSteps := by
  by_contra hn
  have hlen : (fsmTable i).length ≤ n := by
    have hi : (fsmTable i).length ≤ 11 := by cases i <;> simp [fsmTable]
    simp only [microSteps] at hn
    omega
  rw [fsmsAt, List.getD_eq_default _ _ hlen] at h
  cases h

/-- A fault of a composite leads to its closing STOP (R139). -/
theorem faulted_mem_of_closingStop {i : Instr} {n : Nat} (h : closingStop i = some n) : .faulted ∈ fsmsAt i n := by
  cases i <;> cases h <;> exact .tail _ (.head _)

/-- Every check comes before the closing STOP. -/
theorem lt_of_expectedAt {t : StatusTable} {i : Instr} {n : Nat} {p : Byte × BusFault} (h : expectedAt t i n = some p) : n < 9 := by
  unfold expectedAt at h
  split at h <;> cases h <;> decide

/-- Every transition leads from a place in the table to a place in the table. -/
theorem Transition.fsm_mem {t : StatusTable} {c c' : Cur} {f f' : Fsm} {e : List Event} (h : Transition t c f e f' (some c'))
    (hf : f ∈ fsmsAt c.cmd c.seq) : f' ∈ fsmsAt c'.cmd c'.seq := by
  cases h with
  | bitRate => exact hf
  | startAsserted h => cases h <;> exact hf
  | startSent h => cases h <;> exact .head _
  | addressStaged h => cases h <;> exact hf
  | addressClocked h => cases h <;> exact hf
  | addressAcked h => cases h <;> exact .head _
  | dataStaged h => cases h <;> exact .head _
  | dataClocked h => cases h <;> exact hf
  | dataAcked h hi =>
    cases h with
    | writeByte => exact (hi _ rfl).elim
    | readByte => exact hf
    | writeTransaction => exact List.mem_append_left [.faulted] hf
    | readTransaction => exact hf
  | byteRead => exact List.mem_append_left [.faulted] hf
  | compositeFails hp => exact faulted_mem_of_closingStop hp

theorem Stands.of_moved {s t : State} {c : Cur} (hs : Stands s) (hc : s.cur = some c) (h : Moved c s t) : Stands t := by
  obtain ⟨e, htr, -⟩ := h.transition
  intro c' hc'
  rw [hc'] at htr
  exact htr.fsm_mem (hs c hc)

/-- A run of a command always comes to its return or to a wait. -/
theorem runToWait_next {n : Nat} {s : State} (hs : Stands s) : ∃ t, runToWait n s = .next t := by
  induction n generalizing s with
  | zero => exact ⟨s, rfl⟩
  | succ n ih =>
    cases hc : s.cur with
    | none => exact ⟨s, runToWait_none hc⟩
    | some c =>
      cases hm : microStep c s with
      | go t => rw [runToWait_go hc hm]; exact ih (hs.of_moved hc (moved_of_go hm))
      | wait t => exact ⟨t, runToWait_wait hc hm⟩
      | bad =>
        have hf := microStep_follows c s
        rw [hm] at hf
        have hmem := hs c hc
        rw [hf] at hmem
        cases hmem

/-- Settles O23: an admitted command stands at its first micro-step, and from there a run comes to a next state. -/
theorem admissionDecides : Obligations.AdmissionDecides := by
  refine fun i s hi => ⟨fun hadm => ?_, exec_of_not_admitted hi⟩
  rw [exec_of_admitted hi hadm]
  exact runToWait_next (stands_of_cur rfl hadm.fsm_mem)

/-- A run of a command with micro-steps enough to end comes to a return or to a wait: what its transitions keep, `P`, gives there what is to be
shown, `Q`. -/
theorem runToWait_reaches {P Q : State → Prop}
    (hgo : ∀ {s t c}, Stands s → P s → s.cur = some c → microStep c s = .go t → P t)
    (hwait : ∀ {s c x b}, Stands s → P s → s.cur = some c → (expectedAt s.cfg.status c.cmd c.seq).isSome = true →
      Q { s with bus := b, hist := s.hist ++ [.rd .cr x] })
    (hret : ∀ {s}, P s → s.cur = none → Q s)
    {n : Nat} {s t : State} (hs : Stands s) (hp : P s) (hn : ∀ c, s.cur = some c → microSteps < n + c.seq) (h : runToWait n s = .next t) :
    Q t := by
  induction n generalizing s with
  | zero =>
    obtain rfl : s = t := by cases h; rfl
    cases hc : s.cur with
    | none => exact hret hp hc
    | some c =>
      have hle := le_of_mem_fsmsAt (hs c hc)
      have hlt := hn c hc
      omega
  | succ n ih =>
    cases hc : s.cur with
    | none =>
      rw [runToWait_none hc] at h
      cases h
      exact hret hp hc
    | some c =>
      cases hm : microStep c s with
      | go u =>
        rw [runToWait_go hc hm] at h
        refine ih (hs.of_moved hc (moved_of_go hm)) (hgo hs hp hc hm) (fun c' hc' => ?_) h
        have hlt := hn c hc
        have hseq := seq_lt_of_microStep hm hc'
        omega
      | wait u =>
        rw [runToWait_wait hc hm] at h
        cases h
        obtain ⟨hexp, x, b, rfl⟩ := polled_of_wait hm
        exact hwait hs hp hc hexp
      | bad => simp [runToWait, hc, hm] at h

/-! ### The invariant between micro-steps -/

/-- What holds of the engine between micro-steps, beside where the command stands. -/
structure Between (s : State) : Prop where
  notStarted : (∀ c, s.cur = some c → c.cmd = .init) → s.fsm ≠ .started
  clean : ∀ c, s.cur = some c → c.seq < 9 → c.flt = none ∧ c.ret = 0x00
  noResult : s.cur ≠ none → s.res = none
  beforeInit : s.initd = false → s.fsm = .idle ∧ ∀ c, s.cur = some c → c.cmd = .init
  result : ∀ r, s.res = some r → ∃ flt b, r = resultWord flt b
  config : s.cfg.wellFormed = true

section
variable {t : StatusTable} {c c' : Cur} {f f' : Fsm} {e : List Event}

theorem Transition.cmd_eq (h : Transition t c f e f' (some c')) : c'.cmd = c.cmd := by cases h <;> rfl

/-- A context changes in its micro-step alone before the closing STOP. -/
theorem Transition.context_eq (h : Transition t c f e f' (some c')) (hc : c'.seq < 9) : c'.flt = c.flt ∧ c'.ret = c.ret := by
  cases h with
  | byteRead => cases hc.not_ge (by simp)
  | compositeFails hp => exact absurd (le_of_closingStop hp) hc.not_ge
  | _ => exact ⟨rfl, rfl⟩

/-- INIT has two transitions, each one write, and neither changes `FSM` (R80). -/
theorem Transition.init_cases {next : Option Cur} (h : Transition t c f e f' next) (hc : c.cmd = .init) :
    f' = f ∧ ((c.seq = 1 ∧ (∃ v, e = [.wr .brr v]) ∧ next = some { c with seq := 2 }) ∨
      (c.seq = 2 ∧ e = [.wr .psr Machine.prescaler] ∧ next = none)) := by
  cases h with
  | bitRate v => exact ⟨rfl, .inl ⟨rfl, ⟨v, rfl⟩, rfl⟩⟩
  | prescaler => exact ⟨rfl, .inr ⟨rfl, rfl, rfl⟩⟩
  | startAsserted h | startSent h | addressStaged h | addressClocked h => exact (h.ne_init hc).elim
  | addressAcked h => exact (h.addresses.ne_init hc).elim
  | dataStaged h | dataClocked h | dataAcked h => exact (h.ne_init hc).elim
  | startReturns | writeReturns | readReturns | byteRead => cases hc
  | stopped h => subst hc; simp [closingStop] at h
  | primitiveFails _ hexp | compositeFails _ hexp => exact (ne_init_of_expectedAt hexp hc).elim

/-- No command returns in Started (R99). -/
theorem Transition.returns_not_started (h : Transition t c f e f' none) (hf : f ∈ fsmsAt c.cmd c.seq) (hc : c.cmd = .init → f ≠ .started) :
    f' ≠ .started := by
  cases h with
  | prescaler => exact hc rfl
  | startReturns | primitiveFails => simp
  | writeReturns | readReturns => rw [List.mem_singleton.1 hf]; simp
  | stopped => rw [fsmAfterStop_eq]; split <;> simp

end

theorem Between.of_go {s t : State} {c : Cur} (hs : Stands s) (hb : Between s) (hc : s.cur = some c) (hm : microStep c s = .go t) :
    Between t := by
  have h := moved_of_go hm
  obtain ⟨e, htr, -⟩ := h.transition
  have hcmd : ∀ c', t.cur = some c' → c'.cmd = c.cmd := fun c' hc' => by rw [hc'] at htr; exact htr.cmd_eq
  have hinit : c.cmd = .init → s.fsm ≠ .started := fun hi => hb.notStarted fun c' hc' => by cases hc.symm.trans hc'; exact hi
  refine ⟨fun hall => ?_, fun c' hc' hlt => ?_, fun hn => ?_, fun hoff => ?_, fun r hr => ?_, h.cfg ▸ hb.config⟩
  · cases ht : t.cur with
    | none =>
      rw [ht] at htr
      exact htr.returns_not_started (hs c hc) hinit
    | some c' =>
      have hi : c.cmd = .init := (hcmd c' ht).symm.trans (hall c' ht)
      rw [(htr.init_cases hi).1]
      exact hinit hi
  · rw [hc'] at htr
    obtain ⟨hflt, hret⟩ := htr.context_eq hlt
    obtain ⟨hflt0, hret0⟩ := hb.clean c hc ((seq_lt_of_microStep hm hc').trans hlt)
    exact ⟨hflt.trans hflt0, hret.trans hret0⟩
  · obtain ⟨hres, -⟩ | ⟨ht, -⟩ := h.result
    · exact hres.trans (hb.noResult (by simp [hc]))
    · exact (hn ht).elim
  · obtain ⟨hsame, -⟩ | ⟨hset, -⟩ := h.initd
    · obtain ⟨hidle, hall⟩ := hb.beforeInit (hsame.symm.trans hoff)
      exact ⟨(htr.init_cases (hall c hc)).1.trans hidle, fun c' hc' => (hcmd c' hc').trans (hall c hc)⟩
    · cases hset.symm.trans hoff
  · obtain ⟨hres, -⟩ | ⟨-, flt, b, hres⟩ := h.result
    · exact hb.result r (hres.symm.trans hr)
    · exact ⟨flt, b, Option.some.inj (hr.symm.trans hres)⟩

/-- A command at a wait, with the invariant between micro-steps, is a command at the end of a step. -/
theorem Between.engineInv_of_wait {s : State} {c : Cur} (hs : Stands s) (hb : Between s) (hc : s.cur = some c)
    (hexp : (expectedAt s.cfg.status c.cmd c.seq).isSome = true) : EngineInv s := by
  obtain ⟨p, hp⟩ := Option.isSome_iff_exists.1 hexp
  have hne : c.cmd ≠ .init := fun hi => by rw [hi] at hp; cases hp
  refine ⟨fun hn => ?_, fun c' hc' => ?_, hb.noResult, fun hoff => ?_, hb.result, hb.config⟩
  · cases hc.symm.trans hn
  · cases hc.symm.trans hc'
    exact ⟨waitsAt_of_expectedAt hexp (hs c hc), hb.clean c hc (lt_of_expectedAt hp)⟩
  · exact (hne ((hb.beforeInit hoff).2 c hc)).elim

theorem Between.engineInv_of_return {s : State} (hb : Between s) (hc : s.cur = none) : EngineInv s where
  boundary _ := hb.notStarted fun c h => by cases hc.symm.trans h
  inFlight c h := by cases hc.symm.trans h
  noResult := hb.noResult
  beforeInit hoff := ⟨hc, (hb.beforeInit hoff).1⟩
  result := hb.result
  config := hb.config

/-- The bus, the history and the inputs are none of the engine's own state. -/
theorem EngineInv.beside {s : State} (h : EngineInv s) (b : Bus) (l : List Event) (ins : List Input) :
    EngineInv { s with bus := b, hist := l, inputs := ins } :=
  ⟨h.boundary, h.inFlight, h.noResult, h.beforeInit, h.result, h.config⟩

/-- A run of a command keeps the invariant of the engine. -/
theorem engineInv_of_runToWait {n : Nat} {s t : State} (hs : Stands s) (hb : Between s) (hn : ∀ c, s.cur = some c → microSteps < n + c.seq)
    (h : runToWait n s = .next t) : EngineInv t :=
  runToWait_reaches (P := Between) (fun hs hb hc hm => hb.of_go hs hc hm)
    (fun hs hb hc hexp => (hb.engineInv_of_wait hs hc hexp).beside _ _ _) Between.engineInv_of_return hs hb hn h

/-! ### A step -/

section
variable {s t : State} (hinv : EngineInv s)
include hinv

theorem EngineInv.stands : Stands s := fun c hc => mem_fsmsAt_of_waitsAt (hinv.inFlight c hc).1

theorem EngineInv.between {c : Cur} (hc : s.cur = some c) : Between s where
  notStarted hall := by
    have hwait := (hinv.inFlight c hc).1
    rw [hall c hc] at hwait
    exact hwait.elim
  clean c' hc' _ := (hinv.inFlight c' hc').2
  noResult := hinv.noResult
  beforeInit hoff := by cases hc.symm.trans (hinv.beforeInit hoff).1
  result := hinv.result
  config := hinv.config

/-- A command that has just been taken. -/
theorem EngineInv.between_of_admitted {i : Instr} (hadm : Admitted i s) :
    Between { s with cur := some ⟨i, 1, none, 0x00⟩, res := none } where
  notStarted _ := hinv.boundary hadm.1
  clean c hc _ := by cases hc; exact ⟨rfl, rfl⟩
  noResult _ := rfl
  beforeInit hoff := by
    refine ⟨(hinv.beforeInit hoff).2, fun c hc => ?_⟩
    cases hc
    by_contra hi
    simp [hadm.2.1 hi] at hoff
  result r hr := by cases hr
  config := hinv.config

theorem EngineInv.of_resume (hc : s.cur.isSome = true) (h : resume s = .next t) : EngineInv t := by
  obtain ⟨c, hc⟩ := Option.isSome_iff_exists.1 hc
  refine engineInv_of_runToWait hinv.stands (hinv.between hc) (fun c' hc' => ?_) h
  exact Nat.lt_add_of_pos_right (waitsAt_pos (hinv.inFlight c' hc').1)

/-- A command keeps the invariant, and so does a control word, which touches the bus and the history alone. -/
theorem EngineInv.of_exec {i : Instr} (h : exec i s = .next t) : EngineInv t := by
  cases hi : i.isCommand with
  | true =>
    have hadm := admitted_of_next hi h
    rw [exec_of_admitted hi hadm] at h
    refine engineInv_of_runToWait (stands_of_cur rfl hadm.fsm_mem) (hinv.between_of_admitted hadm) (fun c hc => ?_) h
    cases hc
    exact Nat.lt_succ_self _
  | false =>
    cases i with
    | cwStart | cwClock | cwStop =>
      cases h
      exact hinv.beside _ _ _
    | _ => cases hi

end

/-- Right after a reset nothing is open (R150, R152). -/
theorem engineInv_engineReset {s : State} (h : s.cfg.wellFormed = true) : EngineInv s.engineReset where
  boundary _ := by simp
  inFlight c hc := by cases hc
  noResult _ := rfl
  beforeInit _ := ⟨rfl, rfl⟩
  result r hr := by cases hr
  config := h

/-- Settles O33: of the cases of a step, a command runs micro-steps, each a transition, up to its return or to a wait; a reset leaves nothing
open. -/
theorem stepKeepsInv : Obligations.StepKeepsInv := by
  intro s t hinv h
  rcases step_cases h with ⟨hc, hr, -⟩ | ⟨-, -, rfl⟩ | ⟨w, rest, -, -, rfl⟩ | ⟨i, w, rest, -, -, he⟩ | ⟨i, w, rest, -, -, -, he⟩ |
    ⟨k, rest, u, -, hu, rfl⟩ | ⟨i, w, k, rest, u, v, -, -, -, hv, hu, rfl⟩
  · exact hinv.of_resume hc hr
  · exact hinv
  · exact hinv.beside s.bus s.hist rest
  · exact (hinv.beside s.bus s.hist rest).of_exec he
  · exact (hinv.beside s.bus s.hist rest).of_exec he
  · exact engineInv_engineReset ((frame_runFor hu).cfg ▸ hinv.config)
  · obtain ⟨-, rfl⟩ := accept_next hv
    exact engineInv_engineReset ((frame_runFor hu).cfg ▸ hinv.config)

end Sys2Proof.Machine
end

section
/-! PROOFS. The ordering invariants of R100: at every micro-step the observer of the register port has seen what the transitions up to there have
shown it, so it accepts the accesses of the next one. -/

namespace Sys2Proof.Machine

/-! ### What the observer has seen -/

/-- What the observer can have seen between commands, by `FSM`. In Faulted it can have taken a data phase for acknowledged, since it takes either
acknowledgement. -/
def boundarySeens : Fsm → List Seen
  | .idle | .complete => [.closed]
  | .started => []
  | .addressSent | .dataPhase => [.acked]
  | .faulted => [.failed, .acked]

/-- What the observer can have seen in START's part of a command, before its micro-step `n`. -/
def addressSeens (d : Direction) (n : Nat) (f : Fsm) : List Seen :=
  match n with
  | 2 => [.startAsserted]
  | 3 | 4 => [.startSeen]
  | 5 => [.addrClocked d]
  | _ => boundarySeens f

/-- What the observer can have seen before micro-step `n` of a command: but for the phases in progress, what it can have seen between commands. -/
def seensAt (i : Instr) (n : Nat) (f : Fsm) : List Seen :=
  match i, n with
  | .writeByte _, 3 | .readByte, 3 | .writeTransaction _ _, 8 | .readTransaction _, 8 => [.dataClocked]
  | .start _ d, n => addressSeens d n f
  | .writeTransaction _ _, n => addressSeens .write n f
  | .readTransaction _, n => addressSeens .read n f
  | _, _ => boundarySeens f

/-- The byte a command has staged in `DR` before its micro-step `n`, while it matters to the observer. -/
def stagedAt : Instr → Nat → Option Byte
  | .start a d, 4 | .start a d, 5 => some (addressByte a d)
  | .writeTransaction a _, 4 | .writeTransaction a _, 5 => some (addressByte a .write)
  | .readTransaction a, 4 | .readTransaction a, 5 => some (addressByte a .read)
  | .writeByte w, 2 | .writeTransaction _ w, 7 => some w
  | .readByte, 2 | .readTransaction _, 7 => some 0x00
  | _, _ => none

/-- What the observer has seen, against a command in flight at its context `c`. -/
structure Observer.Expects (o : Observer) (c : Cur) (f : Fsm) : Prop where
  seen : o.seen ∈ seensAt c.cmd c.seq f
  staged : ∀ b, stagedAt c.cmd c.seq = some b → o.dr = some b
  initialised : c.cmd ≠ .init → o.brr = true ∧ o.psr = true
  bitRate : c.Configures → o.brr = true

/-- What the observer has seen, against what a micro-step leaves: a context, or a command boundary. -/
def Observer.Meets (o : Observer) (f : Fsm) : Option Cur → Prop
  | none => o.seen ∈ boundarySeens f
  | some c => o.Expects c f

/-- The observer accepts the history so far, and has seen what the engine's state says, between micro-steps. -/
structure Observer.Watches (o : Observer) (s : State) : Prop where
  accepts : observe s.cfg.status s.hist Observer.initial = some o
  configured : s.initd = true → o.brr = true ∧ o.psr = true
  meets : o.Meets s.fsm s.cur

theorem seensAt_one (i : Instr) (f : Fsm) : seensAt i 1 f = boundarySeens f := by cases i <;> rfl

theorem stagedAt_one (i : Instr) : stagedAt i 1 = none := by cases i <;> rfl

theorem seensAt_closingStop {i : Instr} {n : Nat} (h : closingStop i = some n) (f : Fsm) : seensAt i n f = boundarySeens f := by
  cases i <;> cases h <;> rfl

theorem stagedAt_closingStop {i : Instr} {n : Nat} (h : closingStop i = some n) : stagedAt i n = none := by
  cases i <;> cases h <;> rfl

/-! ### What the observer makes of each access -/

theorem observe_append (t : StatusTable) (l l' : List Event) (o : Observer) : observe t (l ++ l') o = (observe t l o).bind (observe t l') := by
  induction l generalizing o with
  | nil => rfl
  | cons e l ih => simp only [List.cons_append, observe, Option.bind_assoc, ih]

section
variable {t : StatusTable} {o : Observer}

theorem observe_singleton (e : Event) : observe t [e] o = o.see t e := by simp [observe]

/-- A poll that sees the flag, with its read of `SR`. -/
theorem observe_poll (x v : Byte) : observe t [.rd .cr x, .rd .sr v] o = o.onStatus t v := by simp [observe, Observer.see]

section
variable (hconf : o.brr = true ∧ o.psr = true)
include hconf

theorem observe_start (h : o.seen = .closed) :
    observe t [.wr .cr ControlWord.start.byte] o = some { o with seen := .startAsserted } := by
  simp [observe_singleton, Observer.see, Observer.onControl, hconf, h]

theorem observe_clock_address {b : Byte} (h : o.seen = .startSeen) (hb : o.dr = some b) :
    observe t [.wr .cr ControlWord.clock.byte] o = some { o with seen := .addrClocked (directionOfByte b) } := by
  simp [observe_singleton, Observer.see, Observer.onControl, hconf, h, hb]

theorem observe_clock_data {b : Byte} (h : o.seen = .acked) (hb : o.dr = some b) :
    observe t [.wr .cr ControlWord.clock.byte] o = some { o with seen := .dataClocked } := by
  simp [observe_singleton, Observer.see, Observer.onControl, hconf, h, hb]

theorem observe_stop (h : o.seen = .acked ∨ o.seen = .failed) :
    observe t [.wr .cr ControlWord.stop.byte] o = some { o with seen := .closed } := by
  rcases h with h | h <;> simp [observe_singleton, Observer.see, Observer.onControl, hconf, h]

end

end

theorem directionOfByte_addressByte (a : Addr) (d : Direction) : directionOfByte (addressByte a d) = d := by
  cases d <;> revert a <;> decide

/-! ### What the observer makes of each transition -/

/-- What has been seen at each wait, with the code its check expects (R82 to R84, R90, R91). -/
theorem seensAt_of_expectedAt {t : StatusTable} {i : Instr} {n : Nat} {exp : Byte} {kind : BusFault}
    (h : expectedAt t i n = some (exp, kind)) (f : Fsm) :
    (seensAt i n f = [.startAsserted] ∧ exp = t.start) ∨ (∃ d, seensAt i n f = [.addrClocked d] ∧ exp = addrAck t d) ∨
      seensAt i n f = [.dataClocked] := by
  unfold expectedAt at h
  split at h <;> cases h
  · exact .inl ⟨rfl, rfl⟩
  · exact .inr (.inl ⟨_, rfl, rfl⟩)
  · exact .inr (.inr rfl)
  · exact .inr (.inr rfl)
  · exact .inl ⟨rfl, rfl⟩
  · exact .inr (.inl ⟨_, rfl, rfl⟩)
  · exact .inr (.inr rfl)
  · exact .inl ⟨rfl, rfl⟩
  · exact .inr (.inl ⟨_, rfl, rfl⟩)
  · exact .inr (.inr rfl)

section
variable {t : StatusTable} {o : Observer} {i : Instr} {flt : Option BusFault} {ret : Byte} {f : Fsm}

/-- A failed check is a failed check to the observer too, but for a data phase with the other acknowledgement. -/
theorem observe_failed_check {n : Nat} {exp : Byte} {kind : BusFault} {v : Byte} (hexp : expectedAt t i n = some (exp, kind))
    (hseen : o.seen ∈ seensAt i n f) (hv : statusCode v ≠ exp) (x : Byte) :
    ∃ z ∈ boundarySeens .faulted, observe t [.rd .cr x, .rd .sr v] o = some { o with seen := z } := by
  rw [observe_poll]
  obtain ⟨hs, rfl⟩ | ⟨d, hs, rfl⟩ | hs := seensAt_of_expectedAt hexp f <;> rw [hs, List.mem_singleton] at hseen <;>
    simp only [Observer.onStatus, hseen]
  · exact ⟨.failed, .head _, by rw [if_neg hv]⟩
  · exact ⟨.failed, .head _, by rw [if_neg hv]⟩
  · exact ⟨_, by split <;> simp [boundarySeens], rfl⟩

theorem Observer.Expects.of_configured {n : Nat} (hconf : o.brr = true ∧ o.psr = true) (hseen : o.seen ∈ seensAt i n f)
    (hstaged : ∀ b, stagedAt i n = some b → o.dr = some b) : o.Expects ⟨i, n, flt, ret⟩ f :=
  ⟨hseen, hstaged, fun _ => hconf, fun _ => hconf.1⟩

/-- A micro-step that needs nothing from the phase before it. -/
theorem Observer.Expects.of_boundary {n : Nat} (hconf : o.brr = true ∧ o.psr = true) (hseen : o.seen ∈ boundarySeens f)
    (hs : seensAt i n f = boundarySeens f) (hstaged : stagedAt i n = none) : o.Expects ⟨i, n, flt, ret⟩ f :=
  .of_configured hconf (hs ▸ hseen) fun b hb => by cases hstaged.symm.trans hb

section
variable {a : Addr} {d : Direction} {n : Nat} (h : Addresses i a d) (hn : n ≤ 5)
include h hn

theorem Addresses.seensAt_eq : seensAt i n f = addressSeens d n f := by
  cases h with
  | start => rfl
  | writeTransaction | readTransaction => interval_cases n <;> rfl

theorem Addresses.stagedAt_eq : stagedAt i n = if n = 4 ∨ n = 5 then some (addressByte a d) else none := by
  cases h <;> interval_cases n <;> rfl

theorem Addresses.expects (hconf : o.brr = true ∧ o.psr = true) (hseen : o.seen ∈ addressSeens d n f)
    (hdr : n = 4 ∨ n = 5 → o.dr = some (addressByte a d)) : o.Expects ⟨i, n, flt, ret⟩ f := by
  refine .of_configured hconf (h.seensAt_eq hn ▸ hseen) fun b hb => ?_
  rw [h.stagedAt_eq hn] at hb
  split at hb
  · exact (hdr ‹_›).trans hb
  · cases hb

end

theorem Stages.seensAt_eq {w : Byte} {base : Nat} (h : Stages i w base) :
    seensAt i (base + 1) f = boundarySeens f ∧ seensAt i (base + 2) f = boundarySeens f ∧ seensAt i (base + 3) f = [.dataClocked] := by
  cases h <;> exact ⟨rfl, rfl, rfl⟩

theorem Stages.stagedAt_eq {w : Byte} {base : Nat} (h : Stages i w base) :
    stagedAt i (base + 2) = some w ∧ stagedAt i (base + 3) = none := by
  cases h <;> exact ⟨rfl, rfl⟩

/-- The observer accepts the accesses `e`, has then seen what they lead to, and knows that INIT has run. -/
def Observer.Accepts (o : Observer) (t : StatusTable) (e : List Event) (f' : Fsm) (next : Option Cur) : Prop :=
  ∃ o', observe t e o = some o' ∧ o'.Meets f' next ∧ o'.brr = true ∧ o'.psr = true

section
variable (hconf : o.brr = true ∧ o.psr = true)
include hconf

/-! The address phase. -/

section
variable {a : Addr} {d : Direction} (h : Addresses i a d) {x v : Byte}
include h

theorem Addresses.accepts_start (hf : f ∈ fsmsAt i 1) (hseen : o.seen ∈ seensAt i 1 f) :
    o.Accepts t [.wr .cr ControlWord.start.byte] f (some ⟨i, 2, flt, ret⟩) := by
  have hclosed : o.seen = .closed := by
    have hfsm : f ∈ [Fsm.idle, .complete] := by cases h <;> exact hf
    rw [seensAt_one] at hseen
    simp only [List.mem_cons, List.not_mem_nil, or_false] at hfsm
    obtain rfl | rfl := hfsm <;> exact List.mem_singleton.1 hseen
  exact ⟨_, observe_start hconf hclosed, h.expects (by decide) hconf (.head _) (by simp), hconf⟩

theorem Addresses.accepts_startSent (hseen : o.seen ∈ seensAt i 2 f) (hv : statusCode v = t.start) :
    o.Accepts t [.rd .cr x, .rd .sr v] .started (some ⟨i, 3, flt, ret⟩) := by
  rw [h.seensAt_eq (by decide)] at hseen
  have hsee : observe t [.rd .cr x, .rd .sr v] o = some { o with seen := .startSeen } := by
    rw [observe_poll, Observer.onStatus, List.mem_singleton.1 hseen]
    simp [hv]
  exact ⟨_, hsee, h.expects (by decide) hconf (.head _) (by simp), hconf⟩

theorem Addresses.accepts_staged (hseen : o.seen ∈ seensAt i 3 f) :
    o.Accepts t [.wr .dr (addressByte a d)] f (some ⟨i, 4, flt, ret⟩) := by
  rw [h.seensAt_eq (by decide)] at hseen
  exact ⟨{ o with dr := some (addressByte a d) }, rfl, h.expects (by decide) hconf hseen fun _ => rfl, hconf⟩

theorem Addresses.accepts_clock (hseen : o.seen ∈ seensAt i 4 f) (hdr : o.dr = some (addressByte a d)) :
    o.Accepts t [.wr .cr ControlWord.clock.byte] f (some ⟨i, 5, flt, ret⟩) := by
  rw [h.seensAt_eq (by decide)] at hseen
  refine ⟨_, observe_clock_address hconf (List.mem_singleton.1 hseen) hdr, h.expects (by decide) hconf ?_ fun _ => hdr, hconf⟩
  rw [directionOfByte_addressByte]
  exact .head _

omit hconf in
theorem Addresses.observe_acked (hseen : o.seen ∈ seensAt i 5 f) (hv : statusCode v = addrAck t d) :
    observe t [.rd .cr x, .rd .sr v] o = some { o with seen := .acked } := by
  rw [h.seensAt_eq (by decide)] at hseen
  rw [observe_poll, Observer.onStatus, List.mem_singleton.1 hseen]
  simp [hv]

end

/-! The data phase. -/

section
variable {w : Byte} {base : Nat} (h : Stages i w base) {x v : Byte}
include h

theorem Stages.accepts_staged (hf : f ∈ fsmsAt i (base + 1)) (hseen : o.seen ∈ seensAt i (base + 1) f) :
    o.Accepts t [.wr .dr w] .dataPhase (some ⟨i, base + 2, flt, ret⟩) := by
  have hacked : o.seen = .acked := by
    have hfsm : f ∈ [Fsm.addressSent, .dataPhase] := by
      cases h with
      | writeByte | readByte => exact hf
      | writeTransaction | readTransaction => exact List.mem_append_left [.dataPhase] hf
    rw [h.seensAt_eq.1] at hseen
    simp only [List.mem_cons, List.not_mem_nil, or_false] at hfsm
    obtain rfl | rfl := hfsm <;> exact List.mem_singleton.1 hseen
  obtain ⟨-, hs, -⟩ := h.seensAt_eq (f := .dataPhase)
  refine ⟨{ o with dr := some w }, rfl, .of_configured hconf ?_ fun b hb => ?_, hconf⟩
  · rw [hs]
    exact hacked ▸ .head _
  · exact h.stagedAt_eq.1.symm.trans hb

theorem Stages.accepts_clock (hf : f ∈ fsmsAt i (base + 2)) (hseen : o.seen ∈ seensAt i (base + 2) f) (hdr : o.dr = some w) :
    o.Accepts t [.wr .cr ControlWord.clock.byte] f (some ⟨i, base + 3, flt, ret⟩) := by
  obtain ⟨-, hs, hs'⟩ := h.seensAt_eq (f := f)
  obtain rfl : f = .dataPhase := by cases h <;> exact List.mem_singleton.1 hf
  rw [hs] at hseen
  refine ⟨_, observe_clock_data hconf (List.mem_singleton.1 hseen) hdr, .of_configured hconf ?_ fun b hb => ?_, hconf⟩
  · rw [hs']
    exact .head _
  · cases h.stagedAt_eq.2.symm.trans hb

omit hconf in
theorem Stages.observe_acked (hseen : o.seen ∈ seensAt i (base + 3) f) (hv : statusCode v = t.dataTxAck ∨ statusCode v = t.dataRxAck) :
    observe t [.rd .cr x, .rd .sr v] o = some { o with seen := .acked } := by
  obtain ⟨-, -, hs⟩ := h.seensAt_eq (f := f)
  rw [hs] at hseen
  rw [observe_poll, Observer.onStatus, List.mem_singleton.1 hseen]
  simp [hv]

end

/-- A STOP is asserted in an acknowledged phase or after a failed check, and closes the transaction. -/
theorem accepts_stop {n : Nat} (h : (i = .stop ∧ n = 1) ∨ closingStop i = some n) (hf : f ∈ fsmsAt i n) (hseen : o.seen ∈ seensAt i n f) :
    o.Accepts t [.wr .cr ControlWord.stop.byte] (fsmAfterStop f) none := by
  have hopen : f ∈ [Fsm.addressSent, .dataPhase, .faulted] := by
    obtain ⟨rfl, rfl⟩ | h := h
    · exact hf
    · cases i <;> cases h <;> exact .tail _ hf
  have hs : seensAt i n f = boundarySeens f := h.elim (fun ⟨_, hn⟩ => hn ▸ seensAt_one i f) fun h => seensAt_closingStop h f
  have hready : o.seen = .acked ∨ o.seen = .failed := by
    rw [hs] at hseen
    simp only [List.mem_cons, List.not_mem_nil, or_false] at hopen
    obtain rfl | rfl | rfl := hopen <;> simp [boundarySeens] at hseen <;> tauto
  refine ⟨_, observe_stop hconf hready, ?_, hconf⟩
  rw [fsmAfterStop_eq]
  split <;> exact .head _

end

/-- The observer accepts the accesses of a transition, and has then seen what the transition leads to. -/
theorem Transition.accepts {c : Cur} {e : List Event} {f' : Fsm} {next : Option Cur} (h : Transition t c f e f' next)
    (hf : f ∈ fsmsAt c.cmd c.seq) (ho : o.Expects c f) (hi : c.cmd ≠ .init) : o.Accepts t e f' next := by
  obtain ⟨hseen, hstaged, hconf, -⟩ := ho
  replace hconf := hconf hi
  cases h with
  | bitRate | prescaler => exact (hi rfl).elim
  | startAsserted h => exact h.accepts_start hconf hf hseen
  | startSent h hv => exact h.accepts_startSent hconf hseen hv
  | addressStaged h => exact h.accepts_staged hconf hseen
  | addressClocked h => exact h.accepts_clock hconf hseen (hstaged _ (h.stagedAt_eq (n := 4) (by decide)))
  | startReturns hv => exact ⟨_, (Addresses.start _ _).observe_acked hseen hv, .head _, hconf⟩
  | addressAcked h hv =>
    refine ⟨_, h.addresses.observe_acked hseen hv, .of_boundary hconf (.head _) ?_ ?_, hconf⟩ <;> cases h <;> rfl
  | dataStaged h => exact h.accepts_staged hconf hf hseen
  | dataClocked h => exact h.accepts_clock hconf hf hseen (hstaged _ h.stagedAt_eq.1)
  | writeReturns hv =>
    obtain rfl := List.mem_singleton.1 hf
    exact ⟨_, (Stages.writeByte _).observe_acked hseen (.inl hv), .head _, hconf⟩
  | dataAcked h hi hv =>
    obtain rfl : f = .dataPhase := by cases h <;> exact List.mem_singleton.1 hf
    refine ⟨_, h.observe_acked hseen hv, .of_boundary hconf (.head _) ?_ ?_, hconf⟩ <;>
      cases h <;> rfl
  | readReturns => exact ⟨o, rfl, hseen, hconf⟩
  | byteRead => exact ⟨o, rfl, .of_boundary hconf hseen rfl rfl, hconf⟩
  | stopped h => exact accepts_stop hconf h hf hseen
  | primitiveFails _ hexp hv =>
    obtain ⟨z, hz, hsee⟩ := observe_failed_check hexp hseen hv _
    exact ⟨_, hsee, hz, hconf⟩
  | compositeFails hp hexp hv =>
    obtain ⟨z, hz, hsee⟩ := observe_failed_check hexp hseen hv _
    exact ⟨_, hsee, .of_boundary hconf hz (seensAt_closingStop hp _) (stagedAt_closingStop hp), hconf⟩

/-- INIT's two writes are accepted at any time, and leave the transaction as it was (R80, R100). -/
theorem Transition.observed_init {c : Cur} {e : List Event} {f' : Fsm} {next : Option Cur} (h : Transition t c f e f' next)
    (ho : o.Expects c f) (hi : c.cmd = .init) :
    ∃ o', observe t e o = some o' ∧ o'.Meets f' next ∧ ((o.brr = true ∧ o.psr = true) ∨ c.Configures → o'.brr = true ∧ o'.psr = true) := by
  obtain ⟨hseen, -, -, hbrr⟩ := ho
  rw [hi] at hseen
  obtain ⟨rfl, ⟨hn, ⟨v, rfl⟩, rfl⟩ | ⟨-, rfl, rfl⟩⟩ := h.init_cases hi
  · refine ⟨{ o with brr := true }, rfl, ⟨?_, fun b hb => ?_, fun hne => (hne hi).elim, fun _ => rfl⟩, ?_⟩
    · exact hi ▸ hseen
    · rw [hi] at hb
      cases hb
    · rintro (⟨-, hpsr⟩ | ⟨-, h2⟩)
      · exact ⟨rfl, hpsr⟩
      · cases hn.symm.trans h2
  · exact ⟨{ o with psr := o.psr || true }, rfl, hseen, fun hor => ⟨hor.elim And.left hbrr, Bool.or_true _⟩⟩

/-- Any transition is observed: it is one of INIT, or one of a command that runs after INIT. -/
theorem Transition.observed {c : Cur} {e : List Event} {f' : Fsm} {next : Option Cur} (h : Transition t c f e f' next)
    (hf : f ∈ fsmsAt c.cmd c.seq) (ho : o.Expects c f) :
    ∃ o', observe t e o = some o' ∧ o'.Meets f' next ∧ ((o.brr = true ∧ o.psr = true) ∨ c.Configures → o'.brr = true ∧ o'.psr = true) := by
  by_cases hi : c.cmd = .init
  · exact h.observed_init ho hi
  · obtain ⟨o', hsee, hmeets, hconf⟩ := h.accepts hf ho hi
    exact ⟨o', hsee, hmeets, fun _ => hconf⟩

end

/-! ### The observer along a run of a command -/

/-- Some observer watches the engine. -/
def Watched (s : State) : Prop := ∃ o : Observer, o.Watches s

theorem Watched.of_moved {s t : State} {c : Cur} (hs : Stands s) (hw : Watched s) (hc : s.cur = some c) (h : Moved c s t) : Watched t := by
  obtain ⟨o, hacc, hconf, hmeets⟩ := hw
  obtain ⟨e, htr, hhist⟩ := h.transition
  rw [hc] at hmeets
  obtain ⟨o', hsee, hmeets', hconf'⟩ := htr.observed (hs c hc) hmeets
  refine ⟨o', ?_, fun hon => hconf' ?_, hmeets'⟩
  · rw [h.cfg, hhist, observe_append, hacc]
    exact hsee
  · obtain ⟨hsame, -⟩ | ⟨-, hcfg⟩ := h.initd
    · exact .inl (hconf (hsame.symm.trans hon))
    · exact .inr hcfg

/-- Between commands, what the observer has seen is what R100's agreement asks. -/
theorem Observer.agrees_iff_of_return {o : Observer} {s : State} (hc : s.cur = none) :
    o.agrees s ↔ (s.initd = true → o.brr = true ∧ o.psr = true) ∧ o.seen ∈ boundarySeens s.fsm := by
  rw [Observer.agrees, hc]
  cases s.fsm <;> simp [boundarySeens]

theorem Watched.orderly_of_return {s : State} (hw : Watched s) (hc : s.cur = none) : Orderly s := by
  obtain ⟨o, hacc, hconf, hmeets⟩ := hw
  rw [hc] at hmeets
  exact ⟨o, hacc, (Observer.agrees_iff_of_return hc).2 ⟨hconf, hmeets⟩⟩

/-- The waits: the check of START, the check of the address phase, the check of a data phase (R104). -/
theorem waitsAt_cases {i : Instr} {n : Nat} {f : Fsm} (h : waitsAt i n f) :
    (∃ a d, Addresses i a d ∧ ((n = 2 ∧ (f = .idle ∨ f = .complete)) ∨ (n = 5 ∧ f = .started))) ∨
      ∃ w base, Stages i w base ∧ n = base + 3 ∧ f = .dataPhase := by
  cases i with
  | init | stop | cwStart | cwClock | cwStop => exact h.elim
  | start a d => exact .inl ⟨a, d, .start a d, h⟩
  | writeByte w => exact .inr ⟨w, 0, .writeByte w, h⟩
  | readByte => exact .inr ⟨0x00, 0, .readByte, h⟩
  | writeTransaction a w =>
    obtain h | h | h := h
    exacts [.inl ⟨a, .write, .writeTransaction a w, .inl h⟩, .inl ⟨a, .write, .writeTransaction a w, .inr h⟩,
      .inr ⟨w, 5, .writeTransaction a w, h⟩]
  | readTransaction a =>
    obtain h | h | h := h
    exacts [.inl ⟨a, .read, .readTransaction a, .inl h⟩, .inl ⟨a, .read, .readTransaction a, .inr h⟩,
      .inr ⟨0x00, 5, .readTransaction a, h⟩]

/-- At a wait, what the observer has seen is what R100's agreement asks. -/
theorem Observer.agrees_iff_of_wait {o : Observer} {s : State} {c : Cur} (hc : s.cur = some c) (hwait : waitsAt c.cmd c.seq s.fsm) :
    o.agrees s ↔ (s.initd = true → o.brr = true ∧ o.psr = true) ∧ o.seen ∈ seensAt c.cmd c.seq s.fsm ∧
      ∀ b, stagedAt c.cmd c.seq = some b → o.dr = some b := by
  obtain ⟨i, n, flt, ret⟩ := c
  rw [Observer.agrees, hc]
  refine and_congr_right fun _ => ?_
  obtain ⟨a, d, h, ⟨hn, hf⟩ | ⟨hn, hf⟩⟩ | ⟨w, base, h, hn, hf⟩ := waitsAt_cases hwait <;> dsimp only at h hn hf ⊢ <;> subst hn
  · rw [h.seensAt_eq (by decide), h.stagedAt_eq (by decide)]
    obtain hf | hf := hf <;> simp [hf, addressSeens]
  · rw [h.seensAt_eq (by decide), h.stagedAt_eq (by decide)]
    cases h <;> simp [hf, addressSeens, and_comm]
  · rw [h.seensAt_eq.2.2, h.stagedAt_eq.2]
    simp [hf]

/-- A clear poll shows the observer nothing. -/
theorem Watched.orderly_of_wait {s : State} {c : Cur} {x : Byte} {b : Bus} (hs : Stands s) (hw : Watched s) (hc : s.cur = some c)
    (hexp : (expectedAt s.cfg.status c.cmd c.seq).isSome = true) : Orderly { s with bus := b, hist := s.hist ++ [.rd .cr x] } := by
  obtain ⟨o, hacc, hconf, hmeets⟩ := hw
  rw [hc] at hmeets
  refine ⟨o, ?_, (Observer.agrees_iff_of_wait hc (waitsAt_of_expectedAt hexp (hs c hc))).2 ⟨hconf, hmeets.seen, hmeets.staged⟩⟩
  rw [observe_append, hacc]
  rfl

/-- A run of a command that is watched ends with R100 kept. -/
theorem orderly_of_runToWait {n : Nat} {s t : State} (hs : Stands s) (hw : Watched s) (hn : ∀ c, s.cur = some c → microSteps < n + c.seq)
    (h : runToWait n s = .next t) : Orderly t :=
  runToWait_reaches (P := Watched) (fun hs hw hc hm => hw.of_moved hs hc (moved_of_go hm)) Watched.orderly_of_wait
    Watched.orderly_of_return hs hw hn h

/-! ### A step -/

section
variable {s t : State} (ho : Orderly s)
include ho

/-- A command at its wait is watched. -/
theorem Orderly.watched {c : Cur} (hinv : EngineInv s) (hc : s.cur = some c) : Watched s := by
  obtain ⟨o, hacc, hagr⟩ := ho
  obtain ⟨hwait, -, -⟩ := hinv.inFlight c hc
  obtain ⟨hconf, hseen, hstaged⟩ := (Observer.agrees_iff_of_wait hc hwait).1 hagr
  have hon : s.initd = true := by
    by_contra hoff
    cases hc.symm.trans (hinv.beforeInit (Bool.eq_false_iff.2 hoff)).1
  have hexpects : o.Expects c s.fsm := ⟨hseen, hstaged, fun _ => hconf hon, fun _ => (hconf hon).1⟩
  exact ⟨o, hacc, hconf, hc ▸ hexpects⟩

/-- So is a command that has just been taken. -/
theorem Orderly.watched_of_admitted {i : Instr} (hadm : Admitted i s) : Watched { s with cur := some ⟨i, 1, none, 0x00⟩, res := none } := by
  obtain ⟨o, hacc, hagr⟩ := ho
  obtain ⟨hconf, hseen⟩ := (Observer.agrees_iff_of_return hadm.1).1 hagr
  refine ⟨o, hacc, hconf, seensAt_one i _ ▸ hseen, fun b hb => ?_, fun hne => hconf (hadm.2.1 hne), fun hcfg => ?_⟩
  · cases (stagedAt_one i).symm.trans hb
  · cases hcfg.2

theorem Orderly.of_resume (hinv : EngineInv s) (hc : s.cur.isSome = true) (h : resume s = .next t) : Orderly t := by
  obtain ⟨c, hc⟩ := Option.isSome_iff_exists.1 hc
  refine orderly_of_runToWait hinv.stands (ho.watched hinv hc) (fun c' hc' => ?_) h
  exact Nat.lt_add_of_pos_right (waitsAt_pos (hinv.inFlight c' hc').1)

theorem Orderly.of_exec {i : Instr} (hi : i.isCommand = true) (h : exec i s = .next t) : Orderly t := by
  have hadm := admitted_of_next hi h
  rw [exec_of_admitted hi hadm] at h
  refine orderly_of_runToWait (stands_of_cur rfl hadm.fsm_mem) (ho.watched_of_admitted hadm) (fun c hc => ?_) h
  cases hc
  exact Nat.lt_succ_self _

end

/-- After a reset the observer begins anew. -/
theorem orderly_engineReset (s : State) : Orderly s.engineReset :=
  ⟨Observer.initial, rfl, (Observer.agrees_iff_of_return rfl).2 ⟨fun h => (by cases h), .head _⟩⟩

/-- A step takes inputs off the list and adds none. -/
theorem CallerOnly.of_step {s t : State} (hcaller : CallerOnly s.inputs) (h : step s = .next t) : CallerOnly t.inputs := by
  obtain ⟨rest, hsuff, hf | hr⟩ := step_framed_or_reset h
  · exact hf.inputs ▸ hcaller.of_suffix hsuff
  · exact hr.inputs ▸ hcaller.of_suffix hsuff

/-- Settles O36: of the cases of a step, a control word is ruled out, a reset leaves no history, and the others run micro-steps, each a transition
the observer accepts, or nothing. -/
theorem stepKeepsOrderly : Obligations.StepKeepsOrderly := by
  intro s t hinv hcaller ho h
  refine ⟨hcaller.of_step h, ?_⟩
  rcases step_cases h with ⟨hc, hr, -⟩ | ⟨-, -, rfl⟩ | ⟨w, rest, -, -, rfl⟩ | ⟨i, w, rest, -, hd, he⟩ | ⟨i, w, rest, -, hi, -, -⟩ |
    ⟨k, rest, u, -, -, rfl⟩ | ⟨i, w, k, rest, u, v, -, -, -, -, -, rfl⟩
  · exact ho.of_resume hinv hc hr
  · exact ho
  · exact ho
  · exact Orderly.of_exec (s := s.withInputs rest) ho (isCommand_of_decodeCommand hd) he
  · exact (hcaller _ (hi ▸ List.mem_cons_self) w rfl).elim
  · exact orderly_engineReset u
  · exact orderly_engineReset u

end Sys2Proof.Machine
end

section
/-! PROOFS. The commands that run in Faulted, and that Idle and Complete are alike (R101, R102). -/

namespace Sys2Proof.Machine

/-- Settles O41: STOP and INIT are what Faulted admits, and their outcomes are known. -/
theorem faultedLeftOnlyByStop : Obligations.FaultedLeftOnlyByStop := by
  intro i s t hi hf h
  have hadm := admitted_of_next hi h
  have hcases : i = .stop ∨ i = .init := by
    obtain ⟨-, -, hfsm⟩ := hadm
    cases i with
    | stop => exact .inl rfl
    | init => exact .inr rfl
    | _ => simp [hf] at hfsm
  obtain rfl | rfl := hcases
  · cases ((stopOutcome s).2 hadm).symm.trans h
    exact ⟨rfl, .inl ⟨rfl, by simp [hf]⟩⟩
  · cases ((initOutcome s).1 hadm.1).symm.trans h
    exact ⟨rfl, .inr ⟨rfl, hf⟩⟩

/-! ### Idle and Complete -/

/-- The outcomes from Idle and from Complete: one refusal, or one next state but for an `FSM` not yet written (R102). -/
def AlikeIdleComplete (o o' : Host.Outcome State Fault Refusal) : Prop :=
  (∃ r, o = .refused r ∧ o' = .refused r) ∨
    ∃ t, o = .next t ∧ (o' = .next t ∨ (t.fsm = .idle ∧ o' = .next { t with fsm := .complete }))

/-- The admission table has the same row in Idle and in Complete (R97, R102). -/
theorem accept_idle_complete {i : Instr} {s : State} {r : Refusal} (h : accept i { s with fsm := .idle } = .refused r) :
    accept i { s with fsm := .complete } = .refused r := by
  have hrow : admits i .idle = admits i .complete := by cases i <;> rfl
  unfold accept at h ⊢
  dsimp only at h ⊢
  rw [hrow] at h
  split_ifs at h ⊢ <;> exact h

theorem Admitted.complete {i : Instr} {s : State} (h : Admitted i { s with fsm := .idle }) : Admitted i { s with fsm := .complete } := by
  obtain ⟨hc, hon, hfsm⟩ := h
  refine ⟨hc, hon, ?_⟩
  cases i with
  | init => trivial
  | start | writeTransaction | readTransaction => exact .inr rfl
  | _ => simp at hfsm

/-- START's part of a command overwrites `FSM` once its first poll has seen the flag, whatever the check then gives (R82, R139). -/
theorem Addresses.run_overwrites_fsm {i : Instr} {a : Addr} {d : Direction} (h : Addresses i a d) {n : Nat} {s : State}
    {flt : Option BusFault} {ret x v : Byte} {b : Bus} (hc : s.cur = some ⟨i, 2, flt, ret⟩) (ha : s.bus.Answers x v b) (f g : Fsm) :
    runToWait (n + 3) { s with fsm := f } = runToWait (n + 3) { s with fsm := g } := by
  obtain ⟨done, hcheck⟩ := h.microStep_eq (flt := flt) (ret := ret) (k := 2) (by decide)
  by_cases hv : statusCode v = s.cfg.status.start
  · have hpass := fun f' => h.runToWait_addressPhase (n := n) (s := { s with fsm := f' }) hc ha hv
    exact (hpass f).trans (hpass g).symm
  · cases hstop : closingStop i with
    | none =>
      have hfail := fun f' => runToWait_fail_primitive (n := n + 2) (s := { s with fsm := f' }) hc (hcheck _) hstop ha hv
      exact (hfail f).trans (hfail g).symm
    | some m =>
      have hfail := fun f' => runToWait_composite_fails (n := n + 1) (s := { s with fsm := f' }) hc (hcheck _) hstop ha hv
      exact (hfail f).trans (hfail g).symm

/-- A command that begins with START, from Idle and from Complete. -/
theorem Addresses.alike_idle_complete {i : Instr} {a : Addr} {d : Direction} (h : Addresses i a d) {s : State}
    (hadm : Admitted i { s with fsm := .idle }) :
    AlikeIdleComplete (exec i { s with fsm := .idle }) (exec i { s with fsm := .complete }) := by
  have hi : i.isCommand = true := by cases h <;> rfl
  obtain ⟨t, ht⟩ := (admissionDecides i _ hi).1 hadm
  obtain ⟨u, hc, hexec⟩ : ∃ u : State, u.cur = some ⟨i, 2, none, 0x00⟩ ∧
      ∀ f, Admitted i { s with fsm := f } → exec i { s with fsm := f } = runToWait 9 { u with fsm := f } :=
    ⟨{ s with cur := some ⟨i, 2, none, 0x00⟩, res := none, bus := s.bus.write .cr 0xA4, hist := s.hist ++ [.wr .cr 0xA4] }, rfl,
      fun f hf => (exec_eq_runToWait hi hf).trans (h.runToWait_start rfl)⟩
  rw [hexec _ hadm] at ht ⊢
  rw [hexec _ hadm.complete]
  rcases u.bus.busy_or_answers with ⟨x, b, hb⟩ | ⟨x, v, b, ha⟩
  · obtain ⟨done, hcheck⟩ := h.microStep_eq (flt := none) (ret := 0x00) (k := 2) (by decide)
    have hbusy := fun f => runToWait_busy (n := 8) (s := { u with fsm := f }) hc (hcheck _) hb
    exact .inr ⟨_, hbusy .idle, .inr ⟨rfl, hbusy .complete⟩⟩
  · exact .inr ⟨t, ht, .inl ((h.run_overwrites_fsm (n := 6) hc ha .complete .idle).trans ht)⟩

/-- Settles O42: what is not admitted is refused by the same row of the table; INIT leaves `FSM`, and START's part of a command overwrites it. -/
theorem idleCompleteAlike : Obligations.IdleCompleteAlike := by
  intro i s hi
  by_cases hadm : Admitted i { s with fsm := .idle }
  · have hcases : i = .init ∨ ∃ a d, Addresses i a d := by
      obtain ⟨-, -, hfsm⟩ := hadm
      cases i with
      | init => exact .inl rfl
      | start a d => exact .inr ⟨a, d, .start a d⟩
      | writeTransaction a w => exact .inr ⟨a, .write, .writeTransaction a w⟩
      | readTransaction a => exact .inr ⟨a, .read, .readTransaction a⟩
      | _ => simp at hfsm
    obtain rfl | ⟨a, d, h⟩ := hcases
    · exact .inr ⟨_, (initOutcome _).1 hadm.1, .inr ⟨rfl, (initOutcome _).1 hadm.complete.1⟩⟩
    · exact h.alike_idle_complete hadm
  · obtain ⟨r, hr⟩ := accept_of_not_admitted hi hadm
    refine .inl ⟨r, ?_, ?_⟩ <;> rw [exec_eq_issue hi, issue]
    · rw [hr]
    · rw [accept_idle_complete hr]

end Sys2Proof.Machine
end

section
/-! PROOFS. The bus-free property (R105): the run of START, then STOP, whatever the environment answers. -/

namespace Sys2Proof.Machine

/-! ### START between its own accesses and the caller's STOP -/

/-- START has asserted `CW_START` after the history `l`, and since then at most `CW_CLOCK`; it stands after its first micro-step, or has returned to
one of the states in which STOP leads to Idle. -/
structure StartRun (l : List Event) (s : State) : Prop where
  asserted : ∃ e, s.hist = l ++ .wr .cr 0xA4 :: e ∧ ∀ w, w ≠ .clock → countAsserts w e = 0
  running : ∀ c, s.cur = some c → (∃ a d, c.cmd = .start a d) ∧ 2 ≤ c.seq
  returned : s.cur = none → s.fsm = .addressSent ∨ s.fsm = .faulted

/-- After its first micro-step START asserts nothing but `CW_CLOCK`, and it returns in AddressSent or in Faulted (R82). -/
theorem Transition.of_start {t : StatusTable} {c : Cur} {f f' : Fsm} {e : List Event} {next : Option Cur} (h : Transition t c f e f' next)
    (hc : ∃ a d, c.cmd = .start a d) (hn : 2 ≤ c.seq) :
    (∀ w, w ≠ .clock → countAsserts w e = 0) ∧ (next = none → f' = .addressSent ∨ f' = .faulted) := by
  obtain ⟨a, d, hc⟩ := hc
  cases h with
  | startAsserted => cases hn.not_gt (by simp)
  | startSent | addressStaged | addressAcked | compositeFails => exact ⟨fun _ _ => rfl, nofun⟩
  | addressClocked =>
    refine ⟨fun w hw => ?_, nofun⟩
    cases w with
    | clock => exact (hw rfl).elim
    | start | stop => rfl
  | startReturns => exact ⟨fun _ _ => rfl, fun _ => .inl rfl⟩
  | primitiveFails => exact ⟨fun _ _ => rfl, fun _ => .inr rfl⟩
  | dataStaged h | dataClocked h | dataAcked h => subst hc; cases h
  | bitRate | prescaler | writeReturns | readReturns | byteRead => cases hc
  | stopped h => subst hc; simp [closingStop] at h

theorem StartRun.leaves {l : List Event} {s : State} {c : Cur} (h : StartRun l s) (hc : s.cur = some c) :
    (microStep c s).Leaves (StartRun l) := by
  obtain ⟨e, hhist, hcount⟩ := h.asserted
  have grown : ∀ {e'}, (∀ w, w ≠ .clock → countAsserts w e' = 0) →
      ∃ e'', s.hist ++ e' = l ++ .wr .cr 0xA4 :: e'' ∧ ∀ w, w ≠ .clock → countAsserts w e'' = 0 := fun {e'} he' =>
    ⟨e ++ e', by simp [hhist], fun w hw => by rw [countAsserts_append, hcount w hw, he' w hw]⟩
  obtain ⟨hcmd, hn⟩ := h.running c hc
  cases hm : microStep c s with
  | go t =>
    have hmoved := moved_of_go hm
    obtain ⟨e', htr, hhist'⟩ := hmoved.transition
    obtain ⟨hcount', hret⟩ := htr.of_start hcmd hn
    refine ⟨hhist' ▸ grown hcount', fun c' hc' => ?_, hret⟩
    have hlt := seq_lt_of_microStep hm hc'
    rw [hc'] at htr
    exact ⟨htr.cmd_eq ▸ hcmd, by omega⟩
  | wait t =>
    obtain ⟨-, x, b, rfl⟩ := polled_of_wait hm
    exact ⟨grown fun _ _ => rfl, h.running, h.returned⟩
  | bad => trivial

theorem StartRun.run {l : List Event} {n : Nat} {s t : State} (h : StartRun l s) (hrun : runToWait n s = .next t) : StartRun l t :=
  runToWait_keeps (fun _ _ hs hc => hs.leaves hc) n s t h hrun

/-- START issued: its first micro-step asserts `CW_START` (R72, R82). -/
theorem startRun_of_exec {a : Addr} {d : Direction} {s t : State} (h : exec (.start a d) s = .next t) : StartRun s.hist t := by
  rw [exec_eq_runToWait rfl (admitted_of_next rfl h), (Addresses.start a d).runToWait_start rfl] at h
  refine StartRun.run ⟨⟨[], rfl, fun w _ => rfl⟩, fun c hc => ?_, fun hc => (by cases hc)⟩ h
  cases hc
  exact ⟨⟨a, d, rfl⟩, le_rfl⟩

/-! ### The run -/

/-- A run of one more step takes that step first. -/
theorem exists_step_of_core_run {n : Nat} {s t : State} (h : Host.Core.run core (n + 1) s = .next t) :
    ∃ u, step s = .next u ∧ Host.Core.run core n u = .next t := by
  have hcore : core.step s = step s := rfl
  cases hs : step s with
  | next u => exact ⟨u, rfl, core_run_next hs ▸ h⟩
  | fault r | refused r => simp [Host.Core.run, hcore, hs] at h

/-- With nothing in flight and nothing to come a run stays where it is. -/
theorem core_run_idle {s : State} (hc : s.cur = none) (hi : s.inputs = []) (n : Nat) : Host.Core.run core n s = .next s := by
  induction n with
  | zero => rfl
  | succ n ih => rw [core_run_next (step_idle hc hi), ih]

/-- A caller that issues while a command is in flight waits (R110). -/
theorem step_issue_blocked {s : State} {w : CommandWord} {rest : List Input} {c : Cur} (hi : s.inputs = .issue w :: rest)
    (hc : s.cur = some c) : step s = resume s := by
  simp [step, hi, takeInput, hc]

/-- From START's first wait or return on, a run that uses up the caller's STOP and leaves nothing in flight has released the bus. -/
theorem StartRun.released {l : List Event} {n : Nat} {s t : State} (h : StartRun l s) (hi : s.inputs = [.issue 0x50000])
    (hrun : Host.Core.run core n s = .next t) (hend : t.inputs = []) :
    t.fsm = .idle ∧ ∃ e, t.hist = l ++ .wr .cr 0xA4 :: (e ++ [.wr .cr 0x94]) ∧ ∀ w, w ≠ .clock → countAsserts w e = 0 := by
  induction n generalizing s with
  | zero =>
    cases hrun
    cases hi.symm.trans hend
  | succ n ih =>
    obtain ⟨u, hstep, hrest⟩ := exists_step_of_core_run hrun
    cases hc : s.cur with
    | some c =>
      rw [step_issue_blocked hi hc] at hstep
      exact ih (h.run hstep) ((frame_runToWait hstep).inputs.trans hi) hrest
    | none =>
      obtain ⟨e, hhist, hcount⟩ := h.asserted
      rw [step_issue hc hi, runWord_of_ok (rfl : decode (.command 0x50000) = .ok .stop)] at hstep
      cases ((stopOutcome _).2 (admitted_of_next rfl hstep)).symm.trans hstep
      rw [core_run_idle (by exact hc) rfl] at hrest
      cases hrest
      exact ⟨by rcases h.returned hc with hf | hf <;> simp [hf], e, by simp [hhist], hcount⟩

/-- Settles O44: START runs first, and whenever the caller's STOP is taken, it has returned to a state from which STOP leads to Idle. -/
theorem startThenStopReleases : Obligations.StartThenStopReleases := by
  intro addr dir s t n w hadm hw hi hrun hend _
  cases n with
  | zero =>
    cases hrun
    cases hi.symm.trans hend
  | succ n =>
    obtain ⟨u, hstep, hrest⟩ := exists_step_of_core_run hrun
    have hdec : decode (.command w) = .ok (.start addr dir) := hw ▸ decode_encode_start addr dir
    rw [step_issue hadm.1 hi, runWord_of_ok hdec] at hstep
    obtain ⟨hidle, e, hhist, hcount⟩ := (startRun_of_exec hstep).released (frame_exec hstep).inputs hrest hend
    have hasserts : ∀ w, w ≠ .clock → countAsserts w (.wr .cr 0xA4 :: (e ++ [.wr .cr 0x94])) = 1 := by
      intro w hw
      rw [← List.singleton_append, countAsserts_append, countAsserts_append, hcount w hw]
      cases w with
      | clock => exact (hw rfl).elim
      | start | stop => rfl
    exact ⟨hidle, _, hhist, hasserts .start (by decide), hasserts .stop (by decide), rfl, by rw [← List.cons_append, List.getLast?_concat]⟩

end Sys2Proof.Machine
end

section
/-! PROOFS. RefBus at the register port (R117 to R125): its polls and their countdown, what every access leaves, and that it is Responsive unless it is
dead (R114). -/

namespace Sys2Proof.Machine

/-! ### The polls -/

/-- The poll that ends the countdown: the flag is set, and the outcome shows in `SR` and `DR` (R122). -/
theorem Bus.read_cr_refBus_due {b : Bus} {cfg : RefBusConfig} {h : RefBusState} {s d : Byte} (hb : b.isRefBus cfg h)
    (hp : h.pend = some ⟨s, d, 0⟩) :
    b.read .cr = (0x80 ||| (b.ctl.cr &&& 0x6F),
      { b with ctl := { b.ctl with sr := s, dr := d }, env := .refBus cfg { h with flag := true, pend := none } }) := by
  obtain ⟨ctl, env, n⟩ := b
  obtain rfl : env = .refBus cfg h := hb
  simp [Bus.read, RefBusState.onRead, RefBusState.poll, RefBusState.crByte, hp]

/-- Settles O52: by the countdown, each clear poll bringing the outcome one nearer. -/
theorem refBusPollCount : Obligations.RefBusPollCount := by
  intro b cfg h sr dr n hb hf hp
  induction n generalizing b h with
  | zero =>
    have hdue := Bus.read_cr_refBus_due hb hp
    refine ⟨nofun, ?_, ?_, ?_⟩
    · simp [Bus.afterPolls, hdue, completionFlag]
    · rw [Bus.afterPolls, Bus.afterPolls, hdue]
      rfl
    · rw [Bus.afterPolls, Bus.afterPolls, hdue]
      rfl
  | succ n ih =>
    obtain ⟨hread, hclear⟩ := Bus.busy_refBus hb hf hp
    obtain ⟨hbefore, hset, hsr, hdr⟩ := ih (b.read .cr).2 { h with pend := some ⟨sr, dr, n⟩ } (by rw [hread]; rfl) hf rfl
    refine ⟨fun k hk => ?_, hset, hsr, hdr⟩
    cases k with
    | zero => simpa [Bus.afterPolls, hread] using hclear
    | succ k => exact hbefore k (Nat.lt_of_succ_lt_succ hk)

/-! ### Any accesses -/

/-- What every access of a list keeps, the list keeps. -/
theorem Bus.accesses_keep {P : Bus → Prop} {l : List Access} (hP : ∀ a ∈ l, ∀ b, P b → P (b.access a)) {b : Bus} (hb : P b) :
    P (b.accesses l) := by
  induction l generalizing b with
  | nil => exact hb
  | cons a l ih => exact ih (fun a' ha' => hP a' (List.mem_cons_of_mem a ha')) (hP a List.mem_cons_self b hb)

/-- RefBus stays RefBus, configured as it was. -/
theorem Bus.access_isRefBus {cfg : RefBusConfig} (a : Access) (b : Bus) (hb : ∃ h, b.isRefBus cfg h) : ∃ h, (b.access a).isRefBus cfg h := by
  obtain ⟨ctl, env, n⟩ := b
  obtain ⟨h, rfl⟩ : ∃ h, env = .refBus cfg h := hb
  cases a <;> exact ⟨_, rfl⟩

/-- RefBus with its flag set, nothing pending, and the code `v` in `sr`. -/
structure Bus.ShowsCode (cfg : RefBusConfig) (v : Byte) (b : Bus) : Prop where
  settled : ∃ h, b.isRefBus cfg h ∧ h.flag = true ∧ h.pend = none
  code : b.ctl.sr = v

/-- No access but a write of `CR` changes what RefBus shows once its flag is set (R117, R122; a write of `SR`: log 19). -/
theorem Bus.ShowsCode.access {cfg : RefBusConfig} {v : Byte} {b : Bus} (hb : b.ShowsCode cfg v) {a : Access}
    (ha : ∀ w, a ≠ .write .cr w) : (b.access a).ShowsCode cfg v := by
  obtain ⟨⟨h, hbus, hflag, hpend⟩, hcode⟩ := hb
  cases a with
  | write r w =>
    have hr : r ≠ .cr := fun hr => ha w (by rw [hr])
    rw [Bus.access, Bus.write_refBus hbus r hr]
    exact ⟨⟨h, hbus, hflag, hpend⟩, (refBusStore_keeps r w b.ctl).1.trans hcode⟩
  | read r =>
    have hread : (b.read r).2 = b := by
      obtain ⟨ctl, env, n⟩ := b
      obtain rfl : env = .refBus cfg h := hbus
      cases r <;> simp [Bus.read, RefBusState.onRead, RefBusState.poll, hpend]
    rw [Bus.access, hread]
    exact ⟨⟨h, hbus, hflag, hpend⟩, hcode⟩

theorem Bus.ShowsCode.read_cr {cfg : RefBusConfig} {v : Byte} {b : Bus} (hb : b.ShowsCode cfg v) : completionFlag (b.read .cr).1 = true := by
  obtain ⟨ctl, env, n⟩ := b
  obtain ⟨⟨h, hbus, hflag, hpend⟩, -⟩ := hb
  obtain rfl : env = .refBus cfg h := hbus
  simp [Bus.read, RefBusState.onRead, RefBusState.poll, RefBusState.crByte, hflag, hpend, completionFlag]

theorem Bus.ShowsCode.read_sr {cfg : RefBusConfig} {v : Byte} {b : Bus} (hb : b.ShowsCode cfg v) :
    (b.read .sr).1 = (v &&& 0xF8) ||| cfg.srLow.setWidth 8 := by
  obtain ⟨ctl, env, n⟩ := b
  obtain ⟨⟨h, hbus, -, -⟩, rfl⟩ := hb
  obtain rfl : env = .refBus cfg h := hbus
  rfl

/-- Settles O53: each access keeps what RefBus shows. -/
theorem refBusFlagStays : Obligations.RefBusFlagStays := by
  intro b cfg h l hb hflag hpend hl
  have hshows : b.ShowsCode cfg b.ctl.sr := ⟨⟨h, hb, hflag, hpend⟩, rfl⟩
  have hafter : (b.accesses l).ShowsCode cfg b.ctl.sr := Bus.accesses_keep (fun a ha _ hb' => hb'.access (hl a ha)) hshows
  exact ⟨hafter.read_cr, hafter.read_sr.trans hshows.read_sr.symm⟩

/-! ### RefBus is Responsive -/

/-- RefBus has begun an action: the flag is clear, and an outcome is pending with the whole countdown (R118). -/
def RefBusState.Begun (cfg : RefBusConfig) (h : RefBusState) : Prop := h.flag = false ∧ ∃ s d, h.pend = some ⟨s, d, cfg.pollDelay⟩

section
variable {cfg : RefBusConfig} (hdead : cfg.dead = false)
include hdead

theorem RefBusState.result_of_alive (s d : Byte) (h : RefBusState) : h.result cfg s d = { h with pend := some ⟨s, d, cfg.pollDelay⟩ } := by
  simp [RefBusState.result, hdead]

theorem RefBusState.begun_result_iff {s d : Byte} {h : RefBusState} : (h.result cfg s d).Begun cfg ↔ h.flag = false := by
  simp [RefBusState.Begun, RefBusState.result_of_alive hdead]

theorem RefBusState.begun_startAction {h : RefBusState} (hflag : h.flag = false) (dr : Byte) : (h.startAction cfg dr).Begun cfg := by
  unfold RefBusState.startAction
  split_ifs <;> exact (RefBusState.begun_result_iff hdead).2 hflag

theorem RefBusState.begun_addressAction {h : RefBusState} (hflag : h.flag = false) (dr : Byte) : (h.addressAction cfg dr).Begun cfg := by
  unfold RefBusState.addressAction
  split
  · exact (RefBusState.begun_result_iff hdead).2 hflag
  · dsimp only
    split <;> exact (RefBusState.begun_result_iff hdead).2 hflag

theorem RefBusState.begun_byteAction {h : RefBusState} (hflag : h.flag = false) (w dr : Byte) : (h.byteAction cfg w dr).Begun cfg := by
  unfold RefBusState.byteAction
  split
  · exact RefBusState.begun_addressAction hdead hflag dr
  · unfold RefBusState.writeAction
    split_ifs <;> exact (RefBusState.begun_result_iff hdead).2 hflag
  · unfold RefBusState.readAction
    split_ifs <;> exact (RefBusState.begun_result_iff hdead).2 hflag
  all_goals exact (RefBusState.begun_result_iff hdead).2 hflag

/-- `CW_START` and `CW_CLOCK` begin an action of RefBus (R118). -/
theorem RefBusState.begun_control {w : ControlWord} (hw : w ≠ .stop) (dr : Byte) (h : RefBusState) : (h.control cfg w.byte dr).Begun cfg := by
  cases w with
  | start => exact RefBusState.begun_startAction (h := { h with flag := false, pend := none }) hdead rfl dr
  | clock => exact RefBusState.begun_byteAction (h := { h with flag := false, pend := none }) hdead rfl 0xC4 dr
  | stop => exact (hw rfl).elim

end

/-- Settles O50: the action leaves an outcome pending, and the poll at the end of its countdown sees the flag. -/
theorem refBusResponsive : Obligations.RefBusResponsive := by
  intro b cfg h hb hdead l w hw
  obtain ⟨h', hb'⟩ := Bus.accesses_keep (P := fun b => ∃ h, b.isRefBus cfg h) (fun a _ => Bus.access_isRefBus a) ⟨h, hb⟩ (l := l)
  obtain ⟨hflag, s, d, hpend⟩ := RefBusState.begun_control hdead hw (b.accesses l).ctl.dr h'
  have hwrite : ((b.accesses l).write .cr w.byte).isRefBus cfg (h'.control cfg w.byte (b.accesses l).ctl.dr) := by
    rw [Bus.isRefBus, Bus.write, show (b.accesses l).env = .refBus cfg h' from hb']
    rfl
  exact ⟨cfg.pollDelay, (refBusPollCount _ cfg _ s d cfg.pollDelay hwrite hflag hpend).2.1⟩

end Sys2Proof.Machine
end

section
/-! PROOFS. Transactions against RefBus (R118 to R121, R124): its actions on the three control words, and the commands that come to them. -/

namespace Sys2Proof.Machine

/-! ### RefBus's actions -/

/-- STOP frees the bus, with `P` on the wire if this master held it (R119). -/
theorem RefBusState.stopAction_eq (h : RefBusState) :
    h.stopAction = { h with
      phase := .free, wire := h.wire ++ (if h.phase = .free ∨ h.phase = .lost then [] else [.stopCond]) } := by
  unfold RefBusState.stopAction
  split <;> simp [RefBusState.goto, RefBusState.put, *]

/-- The STOP word, at the bus (R118, R119). -/
theorem Bus.write_stop_isRefBus {b : Bus} {cfg : RefBusConfig} {h : RefBusState} (hb : b.isRefBus cfg h) :
    (b.write .cr 0x94).isRefBus cfg { h with
      flag := false, pend := none, phase := .free,
      wire := h.wire ++ (if h.phase = .free ∨ h.phase = .lost then [] else [.stopCond]) } := by
  rw [Bus.isRefBus, Bus.write_stop_refBus hb, RefBusState.stopAction_eq]

/-- What RefBus does with `CW_START` is its START action, whatever it still had pending (R118). -/
theorem RefBusState.control_start (cfg : RefBusConfig) (dr : Byte) (h : RefBusState) :
    h.control cfg 0xA4 dr = ({ h with flag := false, pend := none } : RefBusState).startAction cfg dr := by
  simp [RefBusState.control]

/-- The code RefBus reports after a START that it does not lose: that of a repeated START if the bus was not free (R118). -/
def RefBusState.startCode (cfg : RefBusConfig) (h : RefBusState) : Byte := if h.phase = .free then cfg.st.start else 0x10

theorem RefBusState.startAction_eq {cfg : RefBusConfig} {h : RefBusState} (harb : cfg.arbLose ≠ .atStart) (hdead : cfg.dead = false) (dr : Byte) :
    h.startAction cfg dr = { h with
      phase := .owned, wire := h.wire ++ [.startCond], pend := some ⟨h.startCode cfg, dr, cfg.pollDelay⟩ } := by
  unfold RefBusState.startAction RefBusState.startCode
  split_ifs <;> simp_all [RefBusState.result, RefBusState.goto, RefBusState.put]

/-- The phase an acknowledged address leads to (R120). -/
def addressedPhase : Direction → Phase
  | .write => .addrW
  | .read => .addrR

/-- The code of an address that is not acknowledged (R120). -/
def addressNackCode : Direction → Byte
  | .write => 0x20
  | .read => 0x48

section
variable {cfg : RefBusConfig} {h : RefBusState} (hphase : h.phase = .owned) (harb : cfg.arbLose = .never) (hdead : cfg.dead = false) (w : Byte)
include hphase harb hdead

/-- The addressed device acknowledges its address (R120). -/
theorem RefBusState.byteAction_of_acked (hpresent : cfg.present = true) (hnack : cfg.nackAddr = false) (d : Direction) :
    h.byteAction cfg w (addressByte cfg.devAddr d) = { h with
      phase := addressedPhase d, wire := h.wire ++ [.sent (addressByte cfg.devAddr d) true],
      pend := some ⟨addrAck cfg.st d, addressByte cfg.devAddr d, cfg.pollDelay⟩ } := by
  cases d with
  | write =>
    simp [byteAction, addressAction, hphase, harb, hpresent, hnack, addressByte_addr, addressByte_write, result, hdead, goto, put,
      addressedPhase, addrAck]
  | read =>
    simp [byteAction, addressAction, hphase, harb, hpresent, hnack, addressByte_addr, addressByte_read, result, hdead, goto, put,
      addressedPhase, addrAck]

/-- An absent device does not (R120). -/
theorem RefBusState.byteAction_of_absent (hpresent : cfg.present = false) (a : Addr) (d : Direction) :
    h.byteAction cfg w (addressByte a d) = { h with
      phase := .nacked, wire := h.wire ++ [.sent (addressByte a d) false],
      pend := some ⟨unexpectedCode cfg.st (addressNackCode d), addressByte a d, cfg.pollDelay⟩ } := by
  cases d with
  | write => simp [byteAction, addressAction, hphase, harb, hpresent, addressByte_write, result, hdead, goto, put, addressNackCode]
  | read => simp [byteAction, addressAction, hphase, harb, hpresent, addressByte_read, result, hdead, goto, put, addressNackCode]

end

/-! ### STOP -/

/-- Settles O57: STOP is one write of its word. -/
theorem refBusStopReleases : Obligations.RefBusStopReleases := by
  intro s t cfg h hb hexec
  cases ((stopOutcome s).2 (admitted_of_next rfl hexec)).symm.trans hexec
  exact ⟨_, Bus.write_stop_isRefBus hb, rfl, rfl, rfl, rfl, rfl⟩

/-! ### START -/

/-- An immediate RefBus answers a START it does not lose with its code, and this master then holds the bus (R118, R122). -/
theorem Bus.answers_start {b : Bus} {cfg : RefBusConfig} {h : RefBusState} (hb : b.isRefBus cfg h) (harb : cfg.arbLose ≠ .atStart)
    (hdead : cfg.dead = false) (hdelay : cfg.pollDelay = 0) :
    ∃ x b', (b.write .cr 0xA4).Answers x ((h.startCode cfg &&& 0xF8) ||| cfg.srLow.setWidth 8) b' ∧
      b'.isRefBus cfg { h with flag := true, pend := none, phase := .owned, wire := h.wire ++ [.startCond] } := by
  have hact := RefBusState.control_start cfg b.ctl.dr h
  rw [RefBusState.startAction_eq harb hdead, hdelay] at hact
  exact ⟨_, _, Bus.answers_control hb hact rfl, rfl⟩

/-- From a free bus the code of a START is the expected one (R118). -/
theorem statusCode_of_start_free {cfg : RefBusConfig} {h : RefBusState} {t : StatusTable} (ht : t.wellFormed = true) (hst : cfg.st = t)
    (hfree : h.phase = .free) : statusCode ((h.startCode cfg &&& 0xF8) ||| cfg.srLow.setWidth 8) = t.start := by
  rw [RefBusState.startCode, if_pos hfree, hst]
  exact statusCode_of_expected ht (by simp [StatusTable.expected]) _

theorem addrAck_mem_expected (t : StatusTable) (d : Direction) : addrAck t d ∈ t.expected := by
  cases d <;> simp [addrAck, StatusTable.expected]

/-- Settles O56: the START is answered as expected, the address-phase byte with a code that is none of the table. -/
theorem refBusAbsentDevice : Obligations.RefBusAbsentDevice := by
  intro addr dir s cfg h hadm hwf hb hst hpresent harb hdead hdelay hfree hw hr
  have hlow : addressNackCode dir &&& 0x07 = 0 := by cases dir <;> rfl
  have harbLost : addressNackCode dir ≠ s.cfg.status.arbLost := by cases dir; exacts [hw.symm, hr.symm]
  obtain ⟨hunexpected, hne, hlow'⟩ := unexpectedCode_spec s.cfg.status _ hlow harbLost
  have hcode := statusCode_refBus _ cfg.srLow hlow'
  obtain ⟨x, b, hx, hb'⟩ := Bus.answers_start hb (by simp [harb]) hdead hdelay
  have hact := RefBusState.byteAction_of_absent
    (h := { h with flag := false, pend := none, phase := .owned, wire := h.wire ++ [.startCond] }) rfl harb hdead 0xC4 hpresent addr dir
  rw [hst, hdelay] at hact
  obtain ⟨y, b', hy, hb''⟩ := Bus.answers_clockByte hb' hact rfl
  have hout := ((((startOutcomes addr dir s).2 hadm).2 x _ b hx).2 (statusCode_of_start_free hwf hst hfree)).2 y _ b' hy
  refine ⟨_, _, hout.1 ?_, ?_, rfl, hb'', by simp⟩
  · rw [hcode]
    intro he
    exact hunexpected (he ▸ addrAck_mem_expected _ dir)
  · rw [hcode, phaseFault, if_neg hne]

/-! ### A reset in a transaction -/

/-- In Idle INIT runs and makes way for START (R80, R97). -/
theorem exec_init_of_idle {s : State} (hc : s.cur = none) (hfsm : s.fsm = .idle) :
    ∃ u, exec .init s = .next u ∧ (∀ addr dir, Admitted (.start addr dir) u) ∧ u.cfg = s.cfg ∧
      u.bus = (s.bus.write .brr s.cfg.bitRateDivisor).write .psr 0x01 :=
  ⟨_, (initOutcome s).1 hc, fun _ _ => ⟨hc, fun _ => rfl, .inl hfsm⟩, rfl, rfl⟩

/-- INIT's two writes leave RefBus's own state (R117). -/
theorem Bus.write_config_isRefBus {b : Bus} {cfg : RefBusConfig} {h : RefBusState} (hb : b.isRefBus cfg h) (v w : Byte) :
    ((b.write .brr v).write .psr w).isRefBus cfg h := by
  have hbrr : (b.write .brr v).isRefBus cfg h := by rw [Bus.write_refBus hb .brr (by decide)]; exact hb
  rw [Bus.write_refBus hbrr .psr (by decide)]
  exact hbrr

/-- A START on a bus that is held is a repeated one, and fails; STOP is then admitted (R118, R131). -/
theorem exec_start_of_held {addr : Addr} {dir : Direction} {s : State} {cfg : RefBusConfig} {h : RefBusState}
    (hadm : Admitted (.start addr dir) s) (hb : s.bus.isRefBus cfg h) (hheld : h.phase ≠ .free) (hlost : s.cfg.status.arbLost ≠ 0x10)
    (hstart : s.cfg.status.start ≠ 0x10) (hdead : cfg.dead = false) (hdelay : cfg.pollDelay = 0) (harb : cfg.arbLose ≠ .atStart) :
    ∃ t, exec (.start addr dir) s = .next t ∧ t.res = some (resultWord (some .startFailed) 0x00) ∧ t.fsm = .faulted ∧ Admitted .stop t ∧
      t.bus.isRefBus cfg { h with flag := true, pend := none, phase := .owned, wire := h.wire ++ [.startCond] } := by
  have hcode : statusCode ((h.startCode cfg &&& 0xF8) ||| cfg.srLow.setWidth 8) = 0x10 := by
    rw [RefBusState.startCode, if_neg hheld]
    exact statusCode_refBus 0x10 cfg.srLow rfl
  obtain ⟨x, b, hx, hbx⟩ := Bus.answers_start hb harb hdead hdelay
  have hfails := (((startOutcomes addr dir s).2 hadm).2 x _ b hx).1 (hcode ▸ hstart.symm)
  rw [hcode, phaseFault, if_neg hlost.symm] at hfails
  exact ⟨_, hfails, rfl, rfl, ⟨rfl, fun _ => hadm.2.1 (by simp), .inr (.inr rfl)⟩, hbx⟩

/-- Settles O58: neither the reset nor INIT reaches RefBus's own state, so the START finds the bus held. -/
theorem refBusHeldAfterReset : Obligations.RefBusHeldAfterReset := by
  intro addr dir s rest cfg h _ hb _ hlost hstart hdead hdelay harb hphase hi
  have hstep : step s = .next (s.withInputs rest).engineReset := by rw [step, hi]; rfl
  have hheld : h.phase ≠ .free := by intro hfree; simp [hfree] at hphase
  obtain ⟨u, hinit, hadm, hcfg, hbus⟩ := exec_init_of_idle (s := (s.withInputs rest).engineReset) rfl rfl
  have hbu : u.bus.isRefBus cfg h := hbus ▸ Bus.write_config_isRefBus (b := { s.bus with draws := s.bus.draws + 2 }) hb _ _
  obtain ⟨v, hexec, hres, hfsm, hadmStop, hbv⟩ :=
    exec_start_of_held (hadm addr dir) hbu hheld (hcfg ▸ hlost) (hcfg ▸ hstart) hdead hdelay harb
  exact ⟨_, u, v, _, _, hstep, hb, hinit, hexec, hres, hfsm, (stopOutcome v).2 hadmStop, by simp [hfsm], Bus.write_stop_isRefBus hbv, rfl,
    by simp⟩

/-! ### The composites -/

/-- A data phase that is clocked, and what a read of `DR` then gives (R120, R122). -/
theorem Bus.answers_receive {b : Bus} {cfg : RefBusConfig} {h h' : RefBusState} {w s d : Byte} (hb : b.isRefBus cfg h)
    (hact : ({ h with flag := false, pend := none } : RefBusState).byteAction cfg 0xC4 w = h') (hp : h'.pend = some ⟨s, d, 0⟩) :
    ∃ x b', ((b.write .dr w).write .cr 0xC4).Answers x ((s &&& 0xF8) ||| cfg.srLow.setWidth 8) b' ∧
      b'.isRefBus cfg { h' with flag := true, pend := none } ∧ b'.read .dr = (d, b') := by
  rw [Bus.write_refBus hb .dr (by decide)]
  exact ⟨_, _, Bus.answers_control hb ((RefBusState.control_clock cfg w h).trans hact) hp, rfl, rfl⟩

/-- From a free bus an immediate RefBus acknowledges the address of its device (R118, R120). -/
theorem Bus.answers_address {b : Bus} {cfg : RefBusConfig} {h : RefBusState} {t : StatusTable} (ht : t.wellFormed = true)
    (hb : b.isRefBus cfg h) (hst : cfg.st = t) (hpresent : cfg.present = true) (hnack : cfg.nackAddr = false) (harb : cfg.arbLose = .never)
    (hdead : cfg.dead = false) (hdelay : cfg.pollDelay = 0) (hfree : h.phase = .free) (d : Direction) :
    ∃ x v b' y u b'', (b.write .cr 0xA4).Answers x v b' ∧ statusCode v = t.start ∧
      ((b'.write .dr (addressByte cfg.devAddr d)).write .cr 0xC4).Answers y u b'' ∧ statusCode u = addrAck t d ∧
      b''.isRefBus cfg { h with
        flag := true, pend := none, phase := addressedPhase d, wire := h.wire ++ [.startCond, .sent (addressByte cfg.devAddr d) true] } := by
  obtain ⟨x, b', hx, hb'⟩ := Bus.answers_start hb (by simp [harb]) hdead hdelay
  have hact := RefBusState.byteAction_of_acked
    (h := { h with flag := false, pend := none, phase := .owned, wire := h.wire ++ [.startCond] }) rfl harb hdead 0xC4 hpresent hnack d
  rw [hst, hdelay] at hact
  obtain ⟨y, b'', hy, hb''⟩ := Bus.answers_clockByte hb' hact rfl
  refine ⟨x, _, b', y, _, b'', hx, statusCode_of_start_free ht hst hfree, hy, ?_, by simpa using hb''⟩
  exact statusCode_of_expected ht (addrAck_mem_expected t d) _

/-- Settles O54: the three phases are answered as expected. -/
theorem refBusWriteTransaction : Obligations.RefBusWriteTransaction := by
  rintro addr data s cfg h hadm hwf hb hst hpresent hnack hnackData harb hdead hdelay rfl hfree
  obtain ⟨x, v, b, y, u, b', hx, hv, hy, hu, hb'⟩ := Bus.answers_address hwf hb hst hpresent hnack harb hdead hdelay hfree .write
  have hact := RefBusState.byteAction_of_addrW (h := { h with
      flag := false, pend := none, phase := .addrW, wire := h.wire ++ [.startCond, .sent (addressByte cfg.devAddr .write) true] })
    rfl harb hnackData hdead 0xC4 data
  rw [hst, hdelay] at hact
  obtain ⟨z, b'', hz, hb''⟩ := Bus.answers_clockByte hb' hact rfl
  have hk : statusCode ((s.cfg.status.dataTxAck &&& 0xF8) ||| cfg.srLow.setWidth 8) = s.cfg.status.dataTxAck :=
    statusCode_of_expected hwf (by simp [StatusTable.expected]) _
  have hout := ((((((writeTransactionOutcomes cfg.devAddr data s).2 hadm).2 x v b hx).2 hv).2 y u b' hy).2 hu).2 z _ b'' hz
  exact ⟨_, _, hout.2 hk, rfl, rfl, Bus.write_stop_isRefBus hb'', rfl, rfl, by simp⟩

/-- Settles O55: the three phases are answered as expected, and `DR` then holds the device's byte. -/
theorem refBusReadTransaction : Obligations.RefBusReadTransaction := by
  rintro addr s cfg h hadm hwf hb hst hpresent hnack hfail harb hdead hdelay rfl hfree
  obtain ⟨x, v, b, y, u, b', hx, hv, hy, hu, hb'⟩ := Bus.answers_address hwf hb hst hpresent hnack harb hdead hdelay hfree .read
  have hact := RefBusState.byteAction_of_addrR (h := { h with
      flag := false, pend := none, phase := .addrR, wire := h.wire ++ [.startCond, .sent (addressByte cfg.devAddr .read) true] })
    (w := 0xC4) rfl harb hfail hdead (by decide) 0x00
  rw [hst, hdelay] at hact
  obtain ⟨z, b'', hz, hb'', hdr⟩ := Bus.answers_receive hb' hact rfl
  have hk : statusCode ((s.cfg.status.dataRxAck &&& 0xF8) ||| cfg.srLow.setWidth 8) = s.cfg.status.dataRxAck :=
    statusCode_of_expected hwf (by simp [StatusTable.expected]) _
  have hout := ((((((readTransactionOutcomes cfg.devAddr s).2 hadm).2 x v b hx).2 hv).2 y u b' hy).2 hu).2 z _ b'' hz
  exact ⟨_, _, hout.2 hk _ _ hdr, rfl, rfl, rfl, Bus.write_stop_isRefBus hb'', rfl, rfl, by simp⟩

end Sys2Proof.Machine
end

section
/-! PROOFS. The inputs and the command in flight: which input runs which instruction (R63, R110), and that no micro-step looks at the inputs, so a
caller that waits changes nothing (R110, R126; log 6). -/

namespace Sys2Proof.Machine

/-! ### Inputs that run an instruction -/

/-- A caller that skips a word after a fault issues it when the last result word carries none (R66). -/
theorem step_issueUnlessFault {s : State} {w : CommandWord} {rest : List Input} (hc : s.cur = none) (hf : s.reportsFault = false)
    (hi : s.inputs = .issueUnlessFault w :: rest) : step s = runWord (.command w) (s.withInputs rest) := by
  rw [step, hi]
  simp [takeInput, hc, hf]

theorem reportsFault_eq_false {s : State} (h : ∀ r, s.res = some r → resultFault r = 0) : s.reportsFault = false := by
  unfold State.reportsFault
  split
  · rfl
  · next r hr => simp [h r hr]

/-- Settles O25: each input gives its word to the decoder, and the word is run as decoded. -/
theorem stepRunsDecodedInstruction : Obligations.StepRunsDecodedInstruction :=
  fun _ _ _ _ _ =>
    ⟨fun hd hi => (step_issueNow hi).trans (runWord_of_ok hd _),
      fun hd hi hc => (step_issue hc hi).trans (runWord_of_ok hd _),
      fun hd hi hc hr => (step_issueUnlessFault hc (reportsFault_eq_false hr) hi).trans (runWord_of_ok hd _),
      fun hd hi hc => (step_control hc hi).trans (runWord_of_ok hd _)⟩

/-! ### Micro-steps do not look at the inputs -/

/-- The same micro-step with other inputs still to come. -/
def Micro.withInputs (l : List Input) : Micro → Micro
  | .go s => .go (s.withInputs l)
  | .wait s => .wait (s.withInputs l)
  | .bad => .bad

/-- A continuation that does not look at the inputs. -/
def IgnoresInputs (f : State → State) : Prop := ∀ (s : State) (l : List Input), f (s.withInputs l) = (f s).withInputs l

theorem raiseBusFault_withInputs (k : BusFault) (c : Cur) : IgnoresInputs (State.raiseBusFault k c) := by
  intro s l
  cases hp : closingStop c.cmd with
  | none => rw [State.raiseBusFault_primitive hp, State.raiseBusFault_primitive hp]; rfl
  | some n => rw [State.raiseBusFault_composite hp, State.raiseBusFault_composite hp]; rfl

section
variable {c : Cur} {f : State → State} (hf : IgnoresInputs f) (s : State) (l : List Input)
include hf

theorem awaitAndCheck_withInputs (exp : Byte) (kind : BusFault) :
    awaitAndCheck exp kind c f (s.withInputs l) = (awaitAndCheck exp kind c f s).withInputs l := by
  obtain ⟨x, b, hb, hm⟩ | ⟨x, v, b, ha, hv, hm⟩ | ⟨x, v, b, ha, hv, hm⟩ :=
    awaitAndCheck_cases (rfl : awaitAndCheck exp kind c f s = _) <;> rw [hm]
  · exact awaitAndCheck_busy hb
  · exact (awaitAndCheck_pass (s := s.withInputs l) ha hv).trans
      (congrArg Micro.go (hf { s with bus := b, hist := s.hist ++ [.rd .cr x, .rd .sr v] } l))
  · exact (awaitAndCheck_fail (s := s.withInputs l) ha hv).trans
      (congrArg Micro.go (raiseBusFault_withInputs _ c { s with bus := b, hist := s.hist ++ [.rd .cr x, .rd .sr v] } l))

theorem startPhase_withInputs (a : Addr) (d : Direction) (seq : Nat) :
    startPhase a d seq c f (s.withInputs l) = (startPhase a d seq c f s).withInputs l := by
  match seq with
  | 2 => exact awaitAndCheck_withInputs (f := fun t => (t.withFsm .started).goTo c 3) (fun _ _ => rfl) s l _ _
  | 5 => exact awaitAndCheck_withInputs (f := fun t => f (t.withFsm .addressSent)) (fun t _ => hf (t.withFsm .addressSent) _) s l _ _
  | 0 | 1 | 3 | 4 | k + 6 => rfl

theorem writePhase_withInputs (w : Byte) (base seq : Nat) :
    writePhase w base seq c f (s.withInputs l) = (writePhase w base seq c f s).withInputs l := by
  match seq with
  | 3 => exact awaitAndCheck_withInputs hf s l _ _
  | 0 | 1 | 2 | k + 4 => rfl

theorem readPhase_withInputs (base seq : Nat) : readPhase base seq c f (s.withInputs l) = (readPhase base seq c f s).withInputs l := by
  match seq with
  | 3 => exact awaitAndCheck_withInputs (f := fun t => t.goTo c (base + 4)) (fun _ _ => rfl) s l _ _
  | 4 => exact congrArg Micro.go (hf s.readData l)
  | 0 | 1 | 2 | k + 5 => rfl

end

theorem goTo_withInputs (c : Cur) (n : Nat) : IgnoresInputs (fun t => t.goTo c n) := fun _ _ => rfl

section
variable (c : Cur) (s : State) (l : List Input)

theorem initMicro_withInputs : initMicro c (s.withInputs l) = (initMicro c s).withInputs l := by
  unfold initMicro
  split <;> rfl

theorem stopMicro_withInputs : stopMicro c (s.withInputs l) = (stopMicro c s).withInputs l := by
  unfold stopMicro
  split <;> rfl

theorem writeTransactionMicro_withInputs (a : Addr) (w : Byte) :
    writeTransactionMicro a w c (s.withInputs l) = (writeTransactionMicro a w c s).withInputs l := by
  unfold writeTransactionMicro
  split
  · exact writePhase_withInputs (goTo_withInputs c 9) s l w 5 1
  · exact writePhase_withInputs (goTo_withInputs c 9) s l w 5 2
  · exact writePhase_withInputs (goTo_withInputs c 9) s l w 5 3
  · rfl
  · exact startPhase_withInputs (goTo_withInputs c 6) s l a .write _

theorem readTransactionMicro_withInputs (a : Addr) : readTransactionMicro a c (s.withInputs l) = (readTransactionMicro a c s).withInputs l := by
  unfold readTransactionMicro
  split
  · exact readPhase_withInputs (f := fun t => t) (fun _ _ => rfl) s l 5 1
  · exact readPhase_withInputs (f := fun t => t) (fun _ _ => rfl) s l 5 2
  · exact readPhase_withInputs (f := fun t => t) (fun _ _ => rfl) s l 5 3
  · rfl
  · rfl
  · exact startPhase_withInputs (goTo_withInputs c 6) s l a .read _

theorem microStep_withInputs : microStep c (s.withInputs l) = (microStep c s).withInputs l := by
  unfold microStep
  split
  · exact initMicro_withInputs c s l
  · exact startPhase_withInputs (f := fun t => t.finish none 0) (fun _ _ => rfl) s l _ _ _
  · exact writePhase_withInputs (f := fun t => t.finish none 0) (fun _ _ => rfl) s l _ _ _
  · exact readPhase_withInputs (f := fun t => t.finish none t.rxb) (fun _ _ => rfl) s l _ _
  · exact stopMicro_withInputs c s l
  · exact writeTransactionMicro_withInputs c s l _ _
  · exact readTransactionMicro_withInputs c s l _
  all_goals rfl

end

/-- A run of a command to its return or its next wait is the same whatever inputs are still to come. -/
theorem runToWait_withInputs {n : Nat} {s t : State} (h : runToWait n s = .next t) (l : List Input) :
    runToWait n (s.withInputs l) = .next (t.withInputs l) := by
  induction n generalizing s with
  | zero => cases h; rfl
  | succ n ih =>
    cases hc : s.cur with
    | none =>
      cases (runToWait_none hc).symm.trans h
      exact runToWait_none hc
    | some c =>
      have hl := microStep_withInputs c s l
      cases hm : microStep c s with
      | go u =>
        rw [hm] at hl
        rw [runToWait_go hc hm] at h
        exact (runToWait_go (s := s.withInputs l) hc hl).trans (ih h)
      | wait u =>
        rw [hm] at hl
        cases (runToWait_wait hc hm).symm.trans h
        exact runToWait_wait (s := s.withInputs l) hc hl
      | bad => simp [runToWait, hc, hm] at h

/-! ### The blocked caller -/

/-- The inputs of a caller that waits while a command is in flight (R110). -/
theorem step_of_blocked {s : State} {w : CommandWord} {k : Nat} {rest : List Input} (hc : s.cur ≠ none)
    (hi : s.inputs = .issue w :: rest ∨ s.inputs = .issueUnlessFault w :: rest ∨ s.inputs = .issueThenReset w k :: rest) :
    step s = resume s := by
  have hsome : s.cur.isSome = true := Option.isSome_iff_ne_none.2 hc
  obtain hi | hi | hi := hi <;> simp [step, hi, takeInput, hsome]

/-- Settles O27: the step goes on with the command in flight, whatever inputs wait. -/
theorem callerBlockedWhileInFlight : Obligations.CallerBlockedWhileInFlight := by
  intro s w k rest hc hi t h
  rw [step_of_blocked hc hi] at h
  exact ⟨(frame_runToWait h).inputs, (step_of_no_inputs rfl).trans (runToWait_withInputs h [])⟩

end Sys2Proof.Machine
end

section
/-! PROOFS. The intent trace of a composite from its issue to its return, over all its waits (R121, R90 to R92). -/

namespace Sys2Proof.Machine

/-! ### Intent traces -/

/-- The scan goes on where it stopped, with the byte then staged. -/
theorem intentScan_append (e : List Event) (last : Option Byte) :
    ∃ last', ∀ e', intentScan last (e ++ e') = intentScan last e ++ intentScan last' e' := by
  fun_induction intentScan last e with
  | case1 last => exact ⟨last, fun _ => rfl⟩
  | _ => simp_all [intentScan]

/-- Accesses whose intent does not depend on the byte staged before them add it to the trace. -/
theorem intentTrace_append {e e' : List Event} {l l' : List IntentEvent} (he : intentTrace e = l) (he' : ∀ last, intentScan last e' = l') :
    intentTrace (e ++ e') = l ++ l' := by
  obtain ⟨last, hlast⟩ := intentScan_append e none
  rw [intentTrace, hlast e', he' last, ← he, intentTrace]

/-- The trace of the phases a composite has clocked when it stands at its wait `k` (R90, R91). -/
def intentAt (ab d : Byte) : Nat → List IntentEvent
  | 2 => [.startCond]
  | 5 => [.startCond, .clock (some ab)]
  | _ => [.startCond, .clock (some ab), .clock (some d)]

/-- The traces a composite can have that returns with the pending fault `flt`: its STOP follows the phase that failed, or the last (R92, R121). -/
def compositeTraces (ab d : Byte) : Option BusFault → List (List IntentEvent)
  | none | some .dataNack | some .readError => [intentAt ab d 8 ++ [.stopCond]]
  | some .startFailed => [intentAt ab d 2 ++ [.stopCond]]
  | some .addressNack => [intentAt ab d 5 ++ [.stopCond]]
  | some .arbitrationLost => [intentAt ab d 2 ++ [.stopCond], intentAt ab d 5 ++ [.stopCond], intentAt ab d 8 ++ [.stopCond]]

theorem compositeIntent_of_mem {ab d b : Byte} {flt : Option BusFault} {e : List Event} (h : intentTrace e ∈ compositeTraces ab d flt) :
    CompositeIntent ab d (resultWord flt b) e := by
  cases flt with
  | none => constructor <;> simp_all [compositeTraces, intentAt, BusFault.code]
  | some f => cases f <;> constructor <;> simp_all [compositeTraces, intentAt, BusFault.code]

/-- A failed check, or a lost arbitration found there, has its trace among those of its fault (R131 to R135). -/
theorem Composite.mem_traces_of_fault {i : Instr} {a : Addr} {d : Direction} {ab w code exp : Byte} {t : StatusTable} {k : Nat}
    {kind : BusFault} (h : Composite i a d w) (hexp : expectedAt t i k = some (exp, kind)) :
    intentAt ab w k ++ [.stopCond] ∈ compositeTraces ab w (some (phaseFault t code kind)) := by
  have hk : (k = 2 ∧ kind = .startFailed) ∨ (k = 5 ∧ kind = .addressNack) ∨ (k = 8 ∧ (kind = .dataNack ∨ kind = .readError)) := by
    cases h <;> unfold expectedAt at hexp <;> split at hexp <;> simp_all
  unfold phaseFault
  split
  · obtain ⟨rfl, -⟩ | ⟨rfl, -⟩ | ⟨rfl, -⟩ := hk <;> simp [compositeTraces]
  · obtain ⟨rfl, rfl⟩ | ⟨rfl, rfl⟩ | ⟨rfl, rfl | rfl⟩ := hk <;> simp [compositeTraces]

/-! ### From wait to wait -/

/-- The composite `i` stands at its wait `k`, and the accesses since the history `l` have the trace of the phases up to there. -/
structure IntentWait (i : Instr) (ab d : Byte) (l : List Event) (k : Nat) (s : State) : Prop where
  cur : s.cur = some ⟨i, k, none, 0x00⟩
  wait : waitsAt i k s.fsm
  trace : ∃ e, s.hist = l ++ e ∧ intentTrace e = intentAt ab d k

/-- The composite `i`, issued at the history `l`, is at one of its waits, or has returned with a trace of its result. -/
inductive IntentSoFar (i : Instr) (ab d : Byte) (l : List Event) (s : State) : Prop
  | waits {k : Nat} (h : IntentWait i ab d l k s)
  | returned {flt : Option BusFault} {b : Byte} {e : List Event} (hc : s.cur = none) (hr : s.res = some (resultWord flt b))
      (hh : s.hist = l ++ e) (he : intentTrace e ∈ compositeTraces ab d flt)

section
variable {i : Instr} {a : Addr} {d : Direction} {ab w : Byte} {l : List Event} {n k : Nat} {s t : State}

/-- More accesses after a wait add their own intent. -/
theorem IntentWait.append (hs : IntentWait i ab w l k s) {e' : List Event} {l' : List IntentEvent}
    (he' : ∀ last, intentScan last e' = l') : ∃ e, s.hist ++ e' = l ++ e ∧ intentTrace e = intentAt ab w k ++ l' := by
  obtain ⟨e, hhist, htrace⟩ := hs.trace
  exact ⟨e ++ e', by rw [hhist, List.append_assoc], intentTrace_append htrace he'⟩

/-- A wait and its check, if a run that passes the check comes to a later wait or returns. -/
theorem Composite.intent_of_pass (h : Composite i a d w) (hs : IntentWait i ab w l k s) {exp : Byte} {kind : BusFault}
    (hexp : expectedAt s.cfg.status i k = some (exp, kind))
    (hpass : ∀ x v b, s.bus.Answers x v b → statusCode v = exp → IntentSoFar i ab w l t) (hrun : runToWait (n + 2) s = .next t) :
    IntentSoFar i ab w l t := by
  obtain ⟨m, hstop⟩ := h.exists_closingStop
  obtain ⟨exp', kind', f, hexp', hm⟩ := microStep_of_waitsAt (c := ⟨i, k, none, 0x00⟩) hs.wait s
  cases hexp.symm.trans hexp'
  rcases s.bus.busy_or_answers with ⟨x, b, hb⟩ | ⟨x, v, b, ha⟩
  · cases (runToWait_busy hs.cur hm hb).symm.trans hrun
    exact .waits ⟨hs.cur, hs.wait, by simpa using hs.append (e' := [.rd .cr x]) fun _ => rfl⟩
  by_cases hv : statusCode v = exp
  · exact hpass x v b ha hv
  · cases (runToWait_composite_fails hs.cur hm hstop ha hv).symm.trans hrun
    obtain ⟨e, hhist, htrace⟩ := hs.append (e' := [.rd .cr x, .rd .sr v, .wr .cr 0x94]) (l' := [.stopCond]) fun _ => rfl
    exact .returned rfl rfl hhist (htrace ▸ h.mem_traces_of_fault hexp)

/-- The third wait: passed, the composite asserts its STOP and returns (R90, R91). -/
theorem Composite.intent_thirdWait (h : Composite i a d w) (hs : IntentWait i ab w l 8 s) (hrun : runToWait (n + 3) s = .next t) :
    IntentSoFar i ab w l t := by
  cases h with
  | writeTransaction =>
    have hfsm : s.fsm = .dataPhase := by simpa [waitsAt] using hs.wait
    refine (Composite.writeTransaction a w).intent_of_pass hs rfl (fun x v b ha hv => ?_) hrun
    cases (runToWait_writeTransaction_returns hs.cur ha hfsm hv).symm.trans hrun
    obtain ⟨e, hhist, htrace⟩ := hs.append (e' := [.rd .cr x, .rd .sr v, .wr .cr 0x94]) (l' := [.stopCond]) fun _ => rfl
    exact .returned rfl rfl hhist (by simp [htrace, compositeTraces])
  | readTransaction =>
    have hfsm : s.fsm = .dataPhase := by simpa [waitsAt] using hs.wait
    refine (Composite.readTransaction a).intent_of_pass hs rfl (fun x v b ha hv => ?_) hrun
    cases (runToWait_readTransaction_returns hs.cur ha hfsm hv rfl).symm.trans hrun
    obtain ⟨e, hhist, htrace⟩ := hs.append (e' := [.rd .cr x, .rd .sr v, .rd .dr (b.read .dr).1, .wr .cr 0x94]) (l' := [.stopCond]) fun _ => rfl
    exact .returned rfl rfl hhist (by simp [htrace, compositeTraces])

/-- The second wait: passed, the data byte is clocked (R90, R91). -/
theorem Composite.intent_secondWait (h : Composite i a d w) (hs : IntentWait i ab w l 5 s) (hrun : runToWait (n + 6) s = .next t) :
    IntentSoFar i ab w l t := by
  have hexp : expectedAt s.cfg.status i 5 = some (addrAck s.cfg.status d, .addressNack) := by cases h <;> rfl
  have hwait : waitsAt i 8 .dataPhase := by cases h <;> simp [waitsAt]
  refine h.intent_of_pass hs hexp (fun y u b hy hu => ?_) hrun
  rw [h.runToWait_dataPhase hs.cur hy hu] at hrun
  refine h.intent_thirdWait ⟨rfl, hwait, ?_⟩ hrun
  exact hs.append (e' := [.rd .cr y, .rd .sr u, .wr .dr w, .wr .cr 0xC4]) (l' := [.clock (some w)]) fun _ => rfl

/-- The first wait: passed, the address-phase byte is clocked (R82). -/
theorem Composite.intent_firstWait (h : Composite i a d w) (hs : IntentWait i (addressByte a d) w l 2 s)
    (hrun : runToWait (n + 9) s = .next t) : IntentSoFar i (addressByte a d) w l t := by
  have hexp : expectedAt s.cfg.status i 2 = some (s.cfg.status.start, .startFailed) := by cases h <;> rfl
  have hwait : waitsAt i 5 .started := by cases h <;> simp [waitsAt]
  refine h.intent_of_pass hs hexp (fun x v b hx hv => ?_) hrun
  rw [h.addresses.runToWait_addressPhase hs.cur hx hv] at hrun
  refine h.intent_secondWait ⟨rfl, hwait, ?_⟩ hrun
  exact hs.append (e' := [.rd .cr x, .rd .sr v, .wr .dr (addressByte a d), .wr .cr 0xC4]) (l' := [.clock (some (addressByte a d))])
    fun _ => rfl

/-! ### Issued, and gone on with -/

/-- Issued, a composite has asserted START (R72, R82). -/
theorem Composite.intent_exec (h : Composite i a d w) (hexec : exec i s = .next t) : IntentSoFar i (addressByte a d) w s.hist t := by
  have hadm := admitted_of_next h.isCommand hexec
  have hwait : waitsAt i 2 s.fsm := by
    obtain ⟨-, -, hfsm⟩ := hadm
    cases h <;> exact .inl ⟨rfl, hfsm⟩
  refine h.intent_firstWait (n := 0) (s := { s with
      cur := some ⟨i, 2, none, 0x00⟩, res := none, bus := s.bus.write .cr 0xA4, hist := s.hist ++ [.wr .cr 0xA4] }) ?_
    ((h.exec_firstWait hadm).symm.trans hexec)
  exact ⟨rfl, hwait, [.wr .cr 0xA4], rfl, rfl⟩

/-- Gone on with after a wait (R103), or left alone after its return. -/
theorem Composite.intent_step (h : Composite i a d w) (hi : s.inputs = []) (hs : IntentSoFar i (addressByte a d) w l s)
    (hstep : step s = .next t) : IntentSoFar i (addressByte a d) w l t := by
  cases hs with
  | returned hc hr hh he =>
    cases (step_idle hc hi).symm.trans hstep
    exact .returned hc hr hh he
  | @waits k hs =>
    rw [step_of_no_inputs hi] at hstep
    have hk : k = 2 ∨ k = 5 ∨ k = 8 := by
      have hcases := hs.wait
      cases h <;> simp only [waitsAt] at hcases <;> omega
    obtain rfl | rfl | rfl := hk
    exacts [h.intent_firstWait hs hstep, h.intent_secondWait hs hstep, h.intent_thirdWait hs hstep]

theorem Composite.intent_run (h : Composite i a d w) (hi : s.inputs = []) (hs : IntentSoFar i (addressByte a d) w l s)
    (hrun : Host.Core.run core n s = .next t) : IntentSoFar i (addressByte a d) w l t := by
  induction n generalizing s with
  | zero => cases hrun; exact hs
  | succ n ih =>
    obtain ⟨u, hstep, hrest⟩ := exists_step_of_core_run hrun
    have hstep' := step_of_no_inputs hi ▸ hstep
    exact ih ((frame_runToWait hstep').inputs.trans hi) (h.intent_step hi hs hstep) hrest

/-- A composite that has returned, however many steps after its issue. -/
theorem Composite.intent_returned (h : Composite i a d w) {u : State} {r : ResultWord} (hi : s.inputs = []) (hexec : exec i s = .next t)
    (hrun : Host.Core.run core n t = .next u) (hc : u.cur = none) (hr : u.res = some r) :
    ∃ e, u.hist = s.hist ++ e ∧ CompositeIntent (addressByte a d) w r e := by
  cases h.intent_run ((frame_exec hexec).inputs.trans hi) (h.intent_exec hexec) hrun with
  | waits hs => cases hc.symm.trans hs.cur
  | returned _ hr' hh he =>
    cases hr.symm.trans hr'
    exact ⟨_, hh, compositeIntent_of_mem he⟩

end

/-- Settles O48: both composites, from the issue over every wait. -/
theorem compositeIntentTraces : Obligations.CompositeIntentTraces := fun _ _ _ _ _ hi hrun hc hr =>
  ⟨fun addr data hexec => (Composite.writeTransaction addr data).intent_returned hi hexec hrun hc hr,
    fun addr hexec => (Composite.readTransaction addr).intent_returned hi hexec hrun hc hr⟩

end Sys2Proof.Machine
end

section
/-! PROOFS. Under Responsive a command that waits returns (R103, R114): at each of its waits some poll sees the flag, and the check that follows leads
to a later wait or to the return. -/

namespace Sys2Proof.Machine

/-! ### Responsive -/

/-- Some poll from now on sees the flag set. -/
def Bus.Responds (b : Bus) : Prop := ∃ n, completionFlag ((b.afterPolls n).read .cr).1 = true

/-- Responsive speaks of every access sequence, so it is kept by each access. -/
theorem Bus.Responsive.access {b : Bus} (h : b.Responsive) (a : Access) : (b.access a).Responsive := fun l w hw => h (a :: l) w hw

theorem Bus.Responsive.asserted {b : Bus} (h : b.Responsive) {w : ControlWord} (hw : w ≠ .stop) :
    (b.write .cr w.byte).Responds ∧ (b.write .cr w.byte).Responsive := ⟨h [] w hw, h.access (.write .cr w.byte)⟩

/-- A byte is staged and clocked (R73, R76). -/
theorem Bus.Responsive.clocked {b : Bus} (h : b.Responsive) (v : Byte) :
    ((b.write .dr v).write .cr 0xC4).Responds ∧ ((b.write .dr v).write .cr 0xC4).Responsive :=
  Bus.Responsive.asserted (w := .clock) (h.access (.write .dr v)) (by decide)

theorem Bus.Responsive.of_busy {b b' : Bus} {x : Byte} (h : b.Responsive) (hb : b.Busy x b') : b'.Responsive := by
  have hread := h.access (.read .cr)
  rwa [Bus.access, hb.1] at hread

theorem Bus.Responsive.of_answers {b b' : Bus} {x v : Byte} (h : b.Responsive) (ha : b.Answers x v b') : b'.Responsive := by
  have hread := (h.access (.read .cr)).access (.read .sr)
  rwa [Bus.access, Bus.access, ha.2.2] at hread

/-! ### Returning -/

/-- With nothing more from outside, the machine comes to stand with no command in flight and a result word. -/
def Returns (s : State) : Prop := ∃ n u, Host.Core.run core n s = .next u ∧ u.cur = none ∧ u.res ≠ none

/-- `n` micro-steps or a wait from now on the machine is in a state from which it returns. -/
def RunReturns (n : Nat) (s : State) : Prop := ∃ t, runToWait n s = .next t ∧ Returns t

theorem returns_of_returned {s : State} (hc : s.cur = none) (hr : s.res ≠ none) : Returns s := ⟨0, s, rfl, hc, hr⟩

theorem RunReturns.returns {s : State} (h : RunReturns 10 s) (hi : s.inputs = []) : Returns s := by
  obtain ⟨t, hrun, n, u, ht, hu⟩ := h
  exact ⟨n + 1, u, (core_run_next ((step_of_no_inputs hi).trans hrun)).trans ht, hu⟩

/-- The command `i` stands at its wait `k`, with nothing to come from outside, against a Responsive bus that is to answer it. -/
structure Waiting (i : Instr) (k : Nat) (s : State) : Prop where
  cur : s.cur = some ⟨i, k, none, 0x00⟩
  wait : waitsAt i k s.fsm
  inputs : s.inputs = []
  bus : s.bus.Responds ∧ s.bus.Responsive

theorem Waiting.polled {i : Instr} {k : Nat} {s : State} {x : Byte} {b : Bus} (hs : Waiting i k s) (hb : s.bus.Busy x b) (hr : b.Responds) :
    Waiting i k { s with bus := b, hist := s.hist ++ [.rd .cr x] } := ⟨hs.cur, hs.wait, hs.inputs, hr, hs.bus.2.of_busy hb⟩

theorem Waiting.run_busy {n : Nat} {i : Instr} {k : Nat} {s : State} {x : Byte} {b : Bus} (hs : Waiting i k s) (hb : s.bus.Busy x b) :
    runToWait (n + 1) s = .next { s with bus := b, hist := s.hist ++ [.rd .cr x] } := by
  obtain ⟨exp, kind, f, -, hcheck⟩ := microStep_of_waitsAt (c := ⟨i, k, none, 0x00⟩) hs.wait s
  exact runToWait_busy hs.cur hcheck hb

/-- A poll that sees the flag ends at once (R75). -/
theorem Bus.answers_of_flag {b : Bus} (h : completionFlag (b.read .cr).1 = true) :
    b.Answers (b.read .cr).1 ((b.read .cr).2.read .sr).1 ((b.read .cr).2.read .sr).2 := ⟨rfl, h, rfl⟩

/-- A failed check returns (R81, R92). -/
theorem runReturns_of_fail {n : Nat} {s : State} {c : Cur} {exp : Byte} {kind : BusFault} {f : State → State} {x v : Byte} {b : Bus}
    (hc : s.cur = some c) (hm : microStep c s = awaitAndCheck exp kind c f s) (ha : s.bus.Answers x v b) (hv : statusCode v ≠ exp) :
    RunReturns (n + 2) s := by
  cases hp : closingStop c.cmd with
  | none => exact ⟨_, runToWait_fail_primitive hc hm hp ha hv, returns_of_returned rfl (by simp)⟩
  | some m => exact ⟨_, runToWait_composite_fails hc hm hp ha hv, returns_of_returned rfl (by simp)⟩

section
variable {i : Instr} {a : Addr} {d : Direction} {w : Byte} {n k : Nat} {s : State}

/-- A poll that ends: the check passes, or it fails and the command returns. -/
theorem Waiting.runReturns_of_answers {exp : Byte} {kind : BusFault} {x v : Byte} {b : Bus} (hs : Waiting i k s)
    (hexp : expectedAt s.cfg.status i k = some (exp, kind)) (ha : s.bus.Answers x v b)
    (hpass : s.bus.Answers x v b → b.Responsive → statusCode v = exp → RunReturns (n + 2) s) : RunReturns (n + 2) s := by
  obtain ⟨exp', kind', f, hexp', hcheck⟩ := microStep_of_waitsAt (c := ⟨i, k, none, 0x00⟩) hs.wait s
  cases hexp.symm.trans hexp'
  by_cases hv : statusCode v = exp
  · exact hpass ha (hs.bus.2.of_answers ha) hv
  · exact runReturns_of_fail hs.cur hcheck ha hv

/-- A command at a wait returns, if it does where the poll is answered and the check passes: by the number of polls that are not. A step has ten
micro-steps, enough for the `m + 2` that the rest of the command takes at most. -/
theorem Waiting.runReturns_of_pass {exp : Byte} {kind : BusFault} {m : Nat} (hs : Waiting i k s)
    (hexp : expectedAt s.cfg.status i k = some (exp, kind)) (hm : m ≤ 8)
    (hpass : ∀ n u x v b, Waiting i k u → u.cfg = s.cfg → u.bus.Answers x v b → b.Responsive → statusCode v = exp → RunReturns (n + m + 2) u) :
    RunReturns (n + m + 2) s := by
  obtain ⟨j, hj⟩ := hs.bus.1
  induction j generalizing n s with
  | zero => exact hs.runReturns_of_answers hexp (Bus.answers_of_flag hj) (hpass n s _ _ _ hs rfl)
  | succ j ih =>
    rcases s.bus.busy_or_answers with ⟨x, b, hb⟩ | ⟨x, v, b, ha⟩
    · have hj' : completionFlag ((b.afterPolls j).read .cr).1 = true := by rwa [Bus.afterPolls, hb.1] at hj
      have hs' := hs.polled hb ⟨j, hj'⟩
      obtain ⟨n', hn'⟩ : ∃ n', n' + m + 2 = 10 := ⟨8 - m, by omega⟩
      have hreturns : RunReturns (n' + m + 2) { s with bus := b, hist := s.hist ++ [.rd .cr x] } := ih hs' hexp hpass hj'
      rw [hn'] at hreturns
      exact ⟨_, hs.run_busy hb, hreturns.returns hs.inputs⟩
    · exact hs.runReturns_of_answers hexp ha (hpass n s _ _ _ hs rfl)

/-! ### From wait to wait -/

theorem Waiting.runReturns_start (hs : Waiting (.start a d) 5 s) : RunReturns (n + 2) s :=
  hs.runReturns_of_pass (m := 0) rfl (by decide) fun _ _ _ _ _ hu hcfg ha _ hv =>
    ⟨_, runToWait_start_returns hu.cur ha (hcfg ▸ hv), returns_of_returned rfl (by simp)⟩

theorem Waiting.runReturns_writeByte (hs : Waiting (.writeByte w) 3 s) : RunReturns (n + 2) s :=
  hs.runReturns_of_pass (m := 0) rfl (by decide) fun _ _ _ _ _ hu hcfg ha _ hv =>
    ⟨_, runToWait_writeByte_returns hu.cur ha (hcfg ▸ hv), returns_of_returned rfl (by simp)⟩

theorem Waiting.runReturns_readByte (hs : Waiting .readByte 3 s) : RunReturns (n + 2) s :=
  hs.runReturns_of_pass (m := 0) rfl (by decide) fun _ _ _ _ _ hu hcfg ha _ hv =>
    ⟨_, runToWait_readByte_returns hu.cur ha (hcfg ▸ hv) rfl, returns_of_returned rfl (by simp)⟩

theorem Waiting.dataPhase_of_wait (hs : Waiting i 8 s) : s.fsm = .dataPhase := by
  have hwait := hs.wait
  cases i <;> simp_all [waitsAt]

theorem Composite.runReturns_third (h : Composite i a d w) (hs : Waiting i 8 s) : RunReturns (n + 3) s := by
  cases h with
  | writeTransaction =>
    exact hs.runReturns_of_pass (m := 1) rfl (by decide) fun _ _ _ _ _ hu hcfg ha _ hv =>
      ⟨_, runToWait_writeTransaction_returns hu.cur ha hu.dataPhase_of_wait (hcfg ▸ hv), returns_of_returned rfl (by simp)⟩
  | readTransaction =>
    exact hs.runReturns_of_pass (m := 1) rfl (by decide) fun _ _ _ _ _ hu hcfg ha _ hv =>
      ⟨_, runToWait_readTransaction_returns hu.cur ha hu.dataPhase_of_wait (hcfg ▸ hv) rfl, returns_of_returned rfl (by simp)⟩

/-- The second wait of a composite: passed, the data byte is clocked (R90, R91). -/
theorem Composite.runReturns_second (h : Composite i a d w) (hs : Waiting i 5 s) : RunReturns (n + 6) s := by
  have hexp : expectedAt s.cfg.status i 5 = some (addrAck s.cfg.status d, .addressNack) := by cases h <;> rfl
  have hwait : waitsAt i 8 .dataPhase := by cases h <;> simp [waitsAt]
  refine hs.runReturns_of_pass (m := 4) hexp (by decide) fun n u y v b hu hcfg hy hr hv => ?_
  obtain ⟨t, ht, hreturns⟩ := h.runReturns_third (n := n) (s := { u with
      fsm := .dataPhase, txb := w, cur := some ⟨i, 8, none, 0x00⟩, bus := (b.write .dr w).write .cr 0xC4,
      hist := u.hist ++ [.rd .cr y, .rd .sr v, .wr .dr w, .wr .cr 0xC4] }) ⟨rfl, hwait, hu.inputs, hr.clocked w⟩
  exact ⟨t, (h.runToWait_dataPhase hu.cur hy (hcfg ▸ hv)).trans ht, hreturns⟩

/-- The first wait of START's part: passed, the address-phase byte is clocked (R82). -/
theorem Addresses.runReturns_first (h : Addresses i a d) (hsecond : ∀ {n u}, Waiting i 5 u → RunReturns (n + 6) u) (hs : Waiting i 2 s) :
    RunReturns (n + 9) s := by
  have hexp : expectedAt s.cfg.status i 2 = some (s.cfg.status.start, .startFailed) := by cases h <;> rfl
  have hwait : waitsAt i 5 .started := by cases h <;> simp [waitsAt]
  refine hs.runReturns_of_pass (m := 7) hexp (by decide) fun n u x v b hu hcfg hx hr hv => ?_
  obtain ⟨t, ht, hreturns⟩ := hsecond (n := n) (u := { u with
      fsm := .started, txb := addressByte a d, cur := some ⟨i, 5, none, 0x00⟩, bus := (b.write .dr (addressByte a d)).write .cr 0xC4,
      hist := u.hist ++ [.rd .cr x, .rd .sr v, .wr .dr (addressByte a d), .wr .cr 0xC4] }) ⟨rfl, hwait, hu.inputs, hr.clocked _⟩
  exact ⟨t, (h.runToWait_addressPhase hu.cur hx (hcfg ▸ hv)).trans ht, hreturns⟩

/-! ### Issued -/

/-- Issued, a command answers a state from which it returns. -/
def ExecReturns (i : Instr) (s : State) : Prop := ∃ t, exec i s = .next t ∧ Returns t

variable (hi : s.inputs = []) (hr : s.bus.Responsive) (hadm : Admitted i s)
include hi hr hadm

/-- START and the composites assert START and come to their first wait (R82). -/
theorem Addresses.execReturns (h : Addresses i a d) (hsecond : ∀ {n u}, Waiting i 5 u → RunReturns (n + 6) u) : ExecReturns i s := by
  have hcommand : i.isCommand = true := by cases h <;> rfl
  have hwait : waitsAt i 2 s.fsm := by
    obtain ⟨-, -, hfsm⟩ := hadm
    cases h <;> exact .inl ⟨rfl, hfsm⟩
  obtain ⟨t, ht, hreturns⟩ := h.runReturns_first (n := 0) hsecond (s := { s with
      cur := some ⟨i, 2, none, 0x00⟩, res := none, bus := s.bus.write .cr 0xA4, hist := s.hist ++ [.wr .cr 0xA4] })
    ⟨rfl, hwait, hi, hr.asserted (w := .start) (by decide)⟩
  exact ⟨t, (exec_eq_runToWait hcommand hadm).trans ((h.runToWait_start rfl).trans ht), hreturns⟩

/-- WRITE_BYTE and READ_BYTE clock their byte and come to their wait (R83, R84). -/
theorem Stages.execReturns (h : Stages i w 0) (hthird : ∀ {u}, Waiting i 3 u → RunReturns 8 u) : ExecReturns i s := by
  have hwait : waitsAt i 3 .dataPhase := by cases h <;> exact ⟨rfl, rfl⟩
  obtain ⟨t, ht, hreturns⟩ := hthird (u := { s with
      fsm := .dataPhase, txb := w, cur := some ⟨i, 3, none, 0x00⟩, res := none, bus := (s.bus.write .dr w).write .cr 0xC4,
      hist := s.hist ++ [.wr .dr w, .wr .cr 0xC4] }) ⟨rfl, hwait, hi, hr.clocked w⟩
  exact ⟨t, (h.exec_dataPhase hadm).trans ht, hreturns⟩

theorem Composite.execReturns (h : Composite i a d w) : ExecReturns i s :=
  h.addresses.execReturns hi hr hadm h.runReturns_second

end

/-- Settles O49: INIT and STOP return at once, and every other command comes to its first wait. -/
theorem commandsReturnWhenResponsive : Obligations.CommandsReturnWhenResponsive := by
  intro i s hi hadm hin hr
  have hexec : ExecReturns i s := by
    cases i with
    | init => exact ⟨_, (initOutcome s).1 hadm.1, returns_of_returned hadm.1 (by simp)⟩
    | stop => exact ⟨_, (stopOutcome s).2 hadm, returns_of_returned hadm.1 (by simp)⟩
    | start a d => exact (Addresses.start a d).execReturns hin hr hadm Waiting.runReturns_start
    | writeByte w => exact (Stages.writeByte w).execReturns hin hr hadm Waiting.runReturns_writeByte
    | readByte => exact Stages.readByte.execReturns hin hr hadm Waiting.runReturns_readByte
    | writeTransaction a w => exact (Composite.writeTransaction a w).execReturns hin hr hadm
    | readTransaction a => exact (Composite.readTransaction a).execReturns hin hr hadm
    | cwStart | cwClock | cwStop => cases hi
  obtain ⟨t, ht, n, u, hu⟩ := hexec
  exact ⟨t, n, u, ht, hu⟩

end Sys2Proof.Machine
end

section
/-! PROOFS. Fault entry (R139), and the failed check that leads to it (R131 to R135, R137). -/

namespace Sys2Proof.Machine

/-- Only the two composites have a closing STOP (R81, R90, R91). -/
theorem closingStop_eq_none {i : Instr} (hw : ∀ a b, i ≠ .writeTransaction a b) (hr : ∀ a, i ≠ .readTransaction a) :
    closingStop i = none := by
  cases i with
  | writeTransaction a b => exact (hw a b rfl).elim
  | readTransaction a => exact (hr a rfl).elim
  | _ => rfl

/-- Settles O9: a command without a closing STOP returns the fault, a composite goes to its own. -/
theorem faultEntry : Obligations.FaultEntry := fun _ _ _ =>
  ⟨fun hw hr => State.raiseBusFault_primitive (closingStop_eq_none hw hr),
    fun _ _ h => State.raiseBusFault_composite (congrArg closingStop h),
    fun _ h => State.raiseBusFault_composite (congrArg closingStop h)⟩

/-- A micro-step with an expected code is AWAIT_COMPLETION and the CHECK of that code, with the fault of the phase (R82 to R84, R90, R91). -/
theorem microStep_of_expectedAt {c : Cur} {s : State} {exp : Byte} {kind : BusFault}
    (h : expectedAt s.cfg.status c.cmd c.seq = some (exp, kind)) :
    ∃ onPass, microStep c s = awaitAndCheck exp kind c onPass s := by
  obtain ⟨cmd, seq, flt, ret⟩ := c
  unfold expectedAt at h
  dsimp only at h
  split at h <;> cases h <;> exact ⟨_, rfl⟩

/-- Settles O8: the micro-step is a check, its failure raises the fault of the code, and fault entry does the rest, for a primitive and for a
composite. -/
theorem failedCheckRaisesFault : Obligations.FailedCheckRaisesFault := by
  intro c s exp kind x v b hexp ha hv
  obtain ⟨onPass, hm⟩ := microStep_of_expectedAt hexp
  have hgo := hm.trans (awaitAndCheck_fail ha hv)
  have hkind : statusCode v ≠ s.cfg.status.arbLost → phaseFault s.cfg.status (statusCode v) kind = kind := fun hne => if_neg hne
  cases hstop : closingStop c.cmd with
  | none =>
    rw [State.raiseBusFault_primitive hstop] at hgo
    exact ⟨_, _, hgo, hkind, rfl, rfl, rfl, rfl, rfl, rfl, rfl, rfl, fun _ => ⟨rfl, rfl⟩, nofun⟩
  | some m =>
    rw [State.raiseBusFault_composite hstop] at hgo
    refine ⟨_, _, hgo, hkind, rfl, rfl, rfl, rfl, rfl, rfl, rfl, rfl, nofun, fun n hn => ?_⟩
    cases hn
    exact ⟨rfl, rfl⟩

end Sys2Proof.Machine
end

section
/-! PROOFS. The outcomes a step can have besides a next state: a word presented in flight is refused (R136), and the machine's one fault is at a
micro-step where no command in flight stands (log 11). -/

namespace Sys2Proof.Machine

/-! ### Refused in flight -/

/-- Settles O24: an illegal word is refused by the decoder, any other is a command, which the one in flight refuses. -/
theorem refusedWhileInFlight : Obligations.RefusedWhileInFlight := by
  intro s w rest hc hi
  rw [step_issueNow hi]
  cases hd : decode (.command w) with
  | error why => exact ⟨_, runWord_of_error hd _⟩
  | ok i => exact ⟨_, (runWord_of_ok hd _).trans (exec_in_flight (isCommand_of_decodeCommand hd) hc)⟩

/-! ### No fault -/

/-- A command in flight has the micro-step it stands at. -/
theorem Stands.microStep_ne_bad {s : State} {c : Cur} (hs : Stands s) (hc : s.cur = some c) : microStep c s ≠ .bad := by
  intro hm
  have hf := microStep_follows c s
  rw [hm] at hf
  exact List.ne_nil_of_mem (hs c hc) hf

/-- Any number of micro-steps of a command lead to a next state. -/
theorem runFor_next {n : Nat} {s : State} (hs : Stands s) : ∃ t, runFor n s = .next t := by
  induction n generalizing s with
  | zero => exact ⟨s, rfl⟩
  | succ n ih =>
    unfold runFor
    cases hc : s.cur with
    | none => exact ⟨s, rfl⟩
    | some c =>
      dsimp only
      cases hm : microStep c s with
      | go t => exact ih (hs.of_moved hc (moved_of_go hm))
      | wait t =>
        obtain ⟨-, x, b, rfl⟩ := polled_of_wait hm
        exact ih hs
      | bad => exact (hs.microStep_ne_bad hc hm).elim

/-- A command just taken stands at its first micro-step, so it runs (R97). -/
theorem Admitted.stands {i : Instr} {s : State} (h : Admitted i s) : Stands { s with cur := some ⟨i, 1, none, 0x00⟩, res := none } :=
  stands_of_cur rfl h.fsm_mem

section
variable {s : State} {r : Fault}

/-- A command answers a next state or a refusal, a control word a next state. -/
theorem exec_ne_fault (i : Instr) : exec i s ≠ .fault r := by
  cases hi : i.isCommand with
  | true =>
    by_cases hadm : Admitted i s
    · obtain ⟨t, ht⟩ := (admissionDecides i s hi).1 hadm
      simp [ht]
    · obtain ⟨r', hr'⟩ := exec_of_not_admitted hi hadm
      simp [hr']
  | false =>
    cases i with
    | cwStart | cwClock | cwStop => exact nofun
    | _ => cases hi

theorem runWord_ne_fault (p : PortWord) : runWord p s ≠ .fault r := by
  cases hd : decode p with
  | error why => simp [runWord_of_error hd]
  | ok i => rw [runWord_of_ok hd]; exact exec_ne_fault i

theorem resume_ne_fault (hs : Stands s) : resume s ≠ .fault r := by
  obtain ⟨t, ht⟩ := runToWait_next (n := microSteps) hs
  simp [resume, ht]

theorem resetAfter_ne_fault (hs : Stands s) (k : Nat) : resetAfter k s ≠ .fault r := by
  obtain ⟨t, ht⟩ := runFor_next (n := k) hs
  simp [resetAfter, ht]

theorem issueThenReset_ne_fault {i : Instr} (hi : i.isCommand = true) (k : Nat) : issueThenReset i k s ≠ .fault r := by
  by_cases hadm : Admitted i s
  · rw [issueThenReset, accept_of_admitted hadm]
    exact resetAfter_ne_fault hadm.stands k
  · obtain ⟨r', hr'⟩ := accept_of_not_admitted hi hadm
    simp [issueThenReset, hr']

theorem runWordThenReset_ne_fault (w : CommandWord) (k : Nat) : runWordThenReset w k s ≠ .fault r := by
  cases hd : decodeCommand w with
  | error why => simp [runWordThenReset, hd]
  | ok i =>
    rw [runWordThenReset, hd]
    exact issueThenReset_ne_fault (isCommand_of_decodeCommand hd) k

/-- Taking an input runs the command in flight, a word, or up to a reset, and none of these faults. -/
theorem takeInput_ne_fault (hs : Stands s) (i : Input) (rest : List Input) : takeInput i rest s ≠ .fault r := by
  cases i with
  | issue w =>
    rw [takeInput]
    split
    · exact resume_ne_fault hs
    · exact runWord_ne_fault _
  | issueUnlessFault w =>
    rw [takeInput]
    split
    · exact resume_ne_fault hs
    split
    · exact nofun
    · exact runWord_ne_fault _
  | issueNow w => exact runWord_ne_fault _
  | control w =>
    rw [takeInput]
    split
    · exact nofun
    · exact runWord_ne_fault _
  | reset k => exact resetAfter_ne_fault (s := s.withInputs rest) hs k
  | issueThenReset w k =>
    rw [takeInput]
    split
    · exact resume_ne_fault hs
    · exact runWordThenReset_ne_fault w k

end

/-- Settles O37: under the invariant the command in flight stands at one of its micro-steps, and from there no input leads to a fault. -/
theorem stepNeverFaults : Obligations.StepNeverFaults := by
  intro s hinv r
  cases hi : s.inputs with
  | nil => rw [step_of_no_inputs hi]; exact resume_ne_fault hinv.stands
  | cons i rest => rw [step, hi]; exact takeInput_ne_fault hinv.stands i rest

end Sys2Proof.Machine
end

section
/-! PROOFS. What a reset leaves (R150 to R152): the machine that is built, the machine a reset input leaves at any micro-step, what it then admits, and
that it meets the invariants. -/

namespace Sys2Proof.Machine

/-! ### After a reset -/

section
variable {s t : State} {rest : List Input} (h : AfterReset s t rest)
include h

/-- Nothing is open and nothing has been done. -/
theorem AfterReset.engineInv (hwf : t.cfg.wellFormed = true) : EngineInv t where
  boundary _ := by simp [h.fsm]
  inFlight c hc := by cases h.cur.symm.trans hc
  noResult hc := (hc h.cur).elim
  beforeInit _ := ⟨h.cur, h.fsm⟩
  result r hr := by cases h.res.symm.trans hr
  config := hwf

/-- The observer begins with the engine. -/
theorem AfterReset.orderly : Orderly t := by
  refine ⟨Observer.initial, by rw [h.hist]; rfl, (Observer.agrees_iff_of_return h.cur).2 ⟨by simp [h.initd], ?_⟩⟩
  rw [h.fsm]
  exact .head _

/-- Until INIT has run, every other command is refused for that reason (R97). -/
theorem AfterReset.exec_refused {i : Instr} (hi : i.isCommand = true) (hne : i ≠ .init) : exec i t = .refused .notInitialised := by
  have hneeds : needsInit i = true := by
    cases i with
    | init => exact (hne rfl).elim
    | _ => rfl
  rw [exec_eq_issue hi, issue]
  simp [accept, h.cur, h.initd, hneeds]

/-- INIT runs, and leaves the engine initialised and in Idle (R80). -/
theorem AfterReset.exec_init : ∃ u, exec .init t = .next u ∧ u.initd = true ∧ u.fsm = .idle :=
  ⟨_, (initOutcome t).1 h.cur, rfl, h.fsm⟩

end

/-! ### The machine that is built -/

theorem afterReset_resetWith (cfg : Config) : AfterReset (State.resetWith cfg) (State.resetWith cfg) [] := ⟨rfl, rfl, rfl, rfl, rfl, rfl, rfl⟩

/-- The bus behind the port is no part of what is reset (R124, R151). -/
theorem AfterReset.withBus {s t : State} {rest : List Input} (h : AfterReset s t rest) (b : Bus) : AfterReset s (t.withBus b) rest :=
  ⟨h.fsm, h.initd, h.cur, h.hist, h.res, h.inputs, h.cfg⟩

theorem boot_default : State.boot State.reset.cfg = some State.reset := State.boot_eq_some.2 ⟨by decide, rfl⟩

/-- Against either environment a machine that is built is the reset state of a configuration that passes the check (R5, R115). -/
theorem afterReset_of_boot {cfg : Config} {s : State} (h : State.boot cfg = some s ∨ ∃ r, State.bootRefBus cfg r = some s) :
    s.cfg.wellFormed = true ∧ AfterReset (State.resetWith cfg) s [] := by
  rcases h with h | ⟨r, h⟩
  · obtain ⟨hwf, rfl⟩ := State.boot_eq_some.1 h
    exact ⟨hwf, afterReset_resetWith cfg⟩
  · unfold State.bootRefBus at h
    split at h
    case isTrue hcheck =>
      cases h
      exact ⟨(Bool.and_eq_true_iff.1 hcheck).1, (afterReset_resetWith cfg).withBus _⟩
    case isFalse => cases h

/-- The check of R5, code by code. -/
theorem StatusTable.wellFormed_iff {t : StatusTable} :
    t.wellFormed = true ↔ (∀ c ∈ t.entries, c &&& 0x07 = 0) ∧ ∀ c ∈ t.expected, c ≠ t.arbLost := by
  simp [StatusTable.wellFormed, StatusTable.lowBitsZero, StatusTable.arbLostDistinct]

theorem exists_boot_iff {cfg : Config} : (∃ s, State.boot cfg = some s) ↔ cfg.wellFormed = true := by
  simp [State.boot_eq_some]

/-- Settles O29: the reset state is the machine built from the default configuration. -/
theorem resetState : Obligations.ResetState := by
  have hreset : AfterReset State.reset State.reset [] := afterReset_resetWith defaultConfig
  exact ⟨hreset.fsm, hreset.initd, hreset.cur, hreset.hist, hreset.res, hreset.inputs, rfl, fun _ => hreset.exec_refused, hreset.exec_init,
    boot_default, fun _ => exists_boot_iff.trans StatusTable.wellFormed_iff⟩

/-- Settles O32: what is built is a reset state with a table that passes the check, and `State.reset` is built too. -/
theorem resetMeetsInvariants : Obligations.ResetMeetsInvariants := by
  have hbuilt : ∀ (cfg : Config) (s : State), (State.boot cfg = some s ∨ ∃ r, State.bootRefBus cfg r = some s) →
      EngineInv s ∧ Orderly s ∧ accessOrder none s.hist = true ∧ s.hist.all Event.allowed = true ∧ CallerOnly s.inputs := by
    intro cfg s h
    obtain ⟨hwf, hs⟩ := afterReset_of_boot h
    exact ⟨hs.engineInv hwf, hs.orderly, by rw [hs.hist]; rfl, by rw [hs.hist]; rfl, by rw [hs.inputs]; exact nofun⟩
  exact ⟨hbuilt _ _ (.inl boot_default), hbuilt⟩

/-! ### The reset input -/

/-- A reset after any number of micro-steps of the command in flight (R150). -/
theorem resetAfter_afterReset (s : State) {u : State} (hs : Stands u) (hcfg : u.cfg = s.cfg) (k : Nat) :
    ∃ t, resetAfter k u = .next t ∧ AfterReset s t u.inputs := by
  obtain ⟨v, hv⟩ := runFor_next (n := k) hs
  have hframe := frame_runFor hv
  exact ⟨v.engineReset, by rw [resetAfter, hv], rfl, rfl, rfl, rfl, rfl, hframe.inputs, hframe.cfg.trans hcfg⟩

theorem step_reset {s : State} {k : Nat} {rest : List Input} (hi : s.inputs = .reset k :: rest) :
    step s = resetAfter k (s.withInputs rest) := by
  rw [step, hi]
  rfl

/-- With no command in flight the word is decoded, and the command it stands for taken (R63, R110). -/
theorem step_issueThenReset {s : State} {i : Instr} {w : CommandWord} {k : Nat} {rest : List Input} (hc : s.cur = none)
    (hw : decodeCommand w = .ok i) (hi : s.inputs = .issueThenReset w k :: rest) : step s = issueThenReset i k (s.withInputs rest) := by
  rw [step, hi]
  simp [takeInput, hc, runWordThenReset, hw]

/-- A command just taken is one in flight at its first micro-step (R97). -/
theorem issueThenReset_of_admitted {i : Instr} {s : State} (hadm : Admitted i s) (k : Nat) :
    issueThenReset i k s = resetAfter k { s with cur := some ⟨i, 1, none, 0x00⟩, res := none } := by
  rw [issueThenReset, accept_of_admitted hadm]
  rfl

/-- Settles O30: no micro-step comes before the reset, and after it only INIT needs no INIT. -/
theorem resetEvent : Obligations.ResetEvent := by
  intro s rest hi
  have hreset : AfterReset s (s.withInputs rest).engineReset rest := ⟨rfl, rfl, rfl, rfl, rfl, rfl, rfl⟩
  refine ⟨_, step_reset hi, hreset, rfl, rfl, fun i hcmd => ⟨?_, ?_⟩⟩
  · rintro ⟨u, hu⟩
    by_contra hne
    cases (hreset.exec_refused hcmd hne).symm.trans hu
  · rintro rfl
    exact hreset.exec_init.imp fun _ hu => hu.1

/-- Settles O31: the command in flight, and the one just taken, has at each of its micro-steps the next one, so the reset is reached. -/
theorem resetAnywhere : Obligations.ResetAnywhere := by
  refine fun s k rest hinv => ⟨fun hi => ?_, fun i w hw hi => ?_⟩
  · rw [step_reset hi]
    exact resetAfter_afterReset s (u := s.withInputs rest) hinv.stands rfl k
  have hdecode : decodeCommand w = .ok i := by
    have hd := encodedInstructionsDecode i
    rwa [hw] at hd
  refine ⟨fun hadm => ?_, fun hc hadm => ?_⟩
  · have hadm' : Admitted i (s.withInputs rest) := hadm
    rw [step_issueThenReset hadm.1 hdecode hi, issueThenReset_of_admitted hadm']
    exact resetAfter_afterReset s hadm'.stands rfl k
  · obtain ⟨r, hr⟩ := accept_of_not_admitted (s := s.withInputs rest) (isCommand_of_decodeCommand hdecode) hadm
    exact ⟨r, by rw [step_issueThenReset hc hdecode hi, issueThenReset, hr]⟩

end Sys2Proof.Machine
end

section
/-! PROOFS. A command with a wait hangs against a dead RefBus (R118, R122, R156): every poll sees the flag clear and changes nothing but the history. -/

namespace Sys2Proof.Machine

/-! ### A RefBus with nothing to show -/

/-- The flag is clear and nothing is pending. -/
structure Bus.Silent (cfg : RefBusConfig) (h : RefBusState) (b : Bus) : Prop where
  isRefBus : b.isRefBus cfg h
  flag : h.flag = false
  pend : h.pend = none

/-- A poll sees the flag clear and leaves the bus as it was (R122). -/
theorem Bus.Silent.busy {cfg : RefBusConfig} {h : RefBusState} {b : Bus} (hb : b.Silent cfg h) : b.Busy (b.ctl.cr &&& 0x6F) b := by
  obtain ⟨henv, hflag, hpend⟩ := hb
  obtain ⟨ctl, env, n⟩ := b
  cases henv
  simp [Bus.Busy, Bus.read, RefBusState.onRead, RefBusState.poll, RefBusState.crByte, hflag, hpend, completionFlag]

/-- RefBus ends an action by signalling an outcome; until then the flag is clear (R118, R120). -/
def RefBusState.Signals (cfg : RefBusConfig) (h : RefBusState) : Prop := ∃ (u : RefBusState) (s d : Byte), h = u.result cfg s d ∧ u.flag = false

section
variable {cfg : RefBusConfig} {h : RefBusState} (hflag : h.flag = false)
include hflag

theorem RefBusState.signals_startAction (dr : Byte) : (h.startAction cfg dr).Signals cfg := by
  unfold RefBusState.startAction
  split_ifs <;> exact ⟨_, _, _, rfl, hflag⟩

theorem RefBusState.signals_addressAction (dr : Byte) : (h.addressAction cfg dr).Signals cfg := by
  unfold RefBusState.addressAction
  split
  · exact ⟨_, _, _, rfl, hflag⟩
  · dsimp only
    split <;> exact ⟨_, _, _, rfl, hflag⟩

theorem RefBusState.signals_byteAction (w dr : Byte) : (h.byteAction cfg w dr).Signals cfg := by
  unfold RefBusState.byteAction
  split
  · exact RefBusState.signals_addressAction hflag dr
  · unfold RefBusState.writeAction
    split_ifs <;> exact ⟨_, _, _, rfl, hflag⟩
  · unfold RefBusState.readAction
    split_ifs <;> exact ⟨_, _, _, rfl, hflag⟩
  all_goals exact ⟨_, _, _, rfl, hflag⟩

end

/-- `CW_START` and `CW_CLOCK` begin an action (R118). -/
theorem RefBusState.signals_control {w : ControlWord} (hw : w ≠ .stop) (cfg : RefBusConfig) (dr : Byte) (h : RefBusState) :
    (h.control cfg w.byte dr).Signals cfg := by
  cases w with
  | start => rw [ControlWord.byte_start, RefBusState.control_start]; exact RefBusState.signals_startAction rfl dr
  | clock => rw [ControlWord.byte_clock, RefBusState.control_clock]; exact RefBusState.signals_byteAction rfl 0xC4 dr
  | stop => exact (hw rfl).elim

/-- A dead RefBus acts, and has nothing to show for it (R118). -/
theorem Bus.silent_of_dead {b : Bus} {cfg : RefBusConfig} {h : RefBusState} {w : ControlWord} (hb : b.isRefBus cfg h)
    (hdead : cfg.dead = true) (hw : w ≠ .stop) : ∃ h', (b.write .cr w.byte).Silent cfg h' := by
  obtain ⟨u, s, d, hact, hflag⟩ := RefBusState.signals_control hw cfg b.ctl.dr h
  refine ⟨{ u with pend := none }, ?_, hflag, rfl⟩
  have hresult : u.result cfg s d = { u with pend := none } := by simp [RefBusState.result, hdead]
  rw [Bus.isRefBus, Bus.write, show b.env = .refBus cfg h from hb]
  simp only [RefBusState.onWrite, hact, hresult]

/-! ### The hang -/

/-- `s` with `n` more polls that saw the flag clear in its history (R122). -/
def State.polled (n : Nat) (s : State) : State := { s with hist := s.hist ++ List.replicate n (.rd .cr (s.bus.ctl.cr &&& 0x6F)) }

/-- A command stands at a wait, with nothing to come from outside and against a RefBus with nothing to show. -/
structure Stuck (s : State) : Prop where
  wait : ∃ c, s.cur = some c ∧ waitsAt c.cmd c.seq s.fsm
  inputs : s.inputs = []
  bus : ∃ cfg h, s.bus.Silent cfg h

section
variable {s : State} (hs : Stuck s)
include hs

theorem Stuck.cur_ne_none : s.cur ≠ none := by
  obtain ⟨c, hc, -⟩ := hs.wait
  simp [hc]

/-- The poll that sees the flag clear ends the run there (R75). -/
theorem Stuck.runToWait_polled (n : Nat) : runToWait (n + 1) s = .next (s.polled 1) := by
  obtain ⟨c, hc, hwait⟩ := hs.wait
  obtain ⟨cfg, h, hsilent⟩ := hs.bus
  obtain ⟨exp, kind, f, -, hcheck⟩ := microStep_of_waitsAt hwait s
  exact runToWait_busy hc hcheck hsilent.busy

theorem Stuck.polled (n : Nat) : Stuck (s.polled n) := ⟨hs.wait, hs.inputs, hs.bus⟩

/-- Every further step is one more poll. -/
theorem Stuck.run (n : Nat) : Host.Core.run core n s = .next (s.polled n) := by
  induction n generalizing s with
  | zero => simp [Host.Core.run, State.polled]
  | succ n ih =>
    have hstep : step s = .next (s.polled 1) := (step_of_no_inputs hs.inputs).trans (hs.runToWait_polled 9)
    rw [core_run_next hstep, ih (hs.polled 1)]
    simp [State.polled, List.replicate_succ]

theorem Stuck.hangs (l : List Input) : Hangs { s with inputs := l } := fun n =>
  ⟨s.polled n, hs.inputs ▸ hs.run n, hs.cur_ne_none⟩

end

/-! ### Issued -/

/-- A command with a wait asserts START first or clocks a byte first (R82 to R84, R90, R91). -/
theorem Admitted.addresses_or_stages {i : Instr} {s : State} (hadm : Admitted i s) (hinit : i ≠ .init) (hstop : i ≠ .stop) :
    (∃ a d, Addresses i a d) ∨ ∃ w, Stages i w 0 := by
  obtain ⟨-, -, hfsm⟩ := hadm
  cases i with
  | init => exact (hinit rfl).elim
  | stop => exact (hstop rfl).elim
  | start a d => exact .inl ⟨a, d, .start a d⟩
  | writeByte w => exact .inr ⟨w, .writeByte w⟩
  | readByte => exact .inr ⟨_, .readByte⟩
  | writeTransaction a w => exact .inl ⟨a, _, .writeTransaction a w⟩
  | readTransaction a => exact .inl ⟨a, _, .readTransaction a⟩
  | cwStart | cwClock | cwStop => exact hfsm.elim

/-- A command that comes to be stuck polls once, and is stuck still. -/
theorem exec_stuck_of_run {i : Instr} {n : Nat} {s u : State} (hrun : exec i s = runToWait (n + 1) u) (hu : Stuck u) :
    ∃ t, exec i s = .next t ∧ Stuck t ∧ t.res = u.res := ⟨_, hrun.trans (hu.runToWait_polled n), hu.polled 1, rfl⟩

/-- Issued against a dead RefBus, a command comes to its first wait and is stuck there (R156). -/
theorem exec_stuck {i : Instr} {s : State} {cfg : RefBusConfig} {h : RefBusState} (hadm : Admitted i s) (hinit : i ≠ .init)
    (hstop : i ≠ .stop) (hi : s.inputs = []) (hb : s.bus.isRefBus cfg h) (hdead : cfg.dead = true) :
    ∃ t, exec i s = .next t ∧ Stuck t ∧ t.res = none := by
  rcases hadm.addresses_or_stages hinit hstop with ⟨a, d, hphase⟩ | ⟨w, hphase⟩
  · have hcommand : i.isCommand = true := by cases hphase <;> rfl
    have hwait : waitsAt i 2 s.fsm := by
      obtain ⟨-, -, hfsm⟩ := hadm
      cases hphase <;> exact .inl ⟨rfl, hfsm⟩
    exact exec_stuck_of_run ((exec_eq_runToWait hcommand hadm).trans (hphase.runToWait_start rfl))
      ⟨⟨_, rfl, hwait⟩, hi, cfg, Bus.silent_of_dead (w := .start) hb hdead (by decide)⟩
  · have hwait : waitsAt i 3 .dataPhase := by cases hphase <;> exact ⟨rfl, rfl⟩
    have hstaged : (s.bus.write .dr w).isRefBus cfg h := by rw [Bus.write_refBus hb .dr (by decide)]; exact hb
    exact exec_stuck_of_run (hphase.exec_dataPhase hadm)
      ⟨⟨_, rfl, hwait⟩, hi, cfg, Bus.silent_of_dead (w := .clock) hstaged hdead (by decide)⟩

/-- Settles O51: the control word leaves nothing pending, so the wait is stuck, and stays so by induction on the steps. -/
theorem refBusHangs : Obligations.RefBusHangs := by
  refine ⟨fun b cfg h w hb hdead hw => ?_, fun s c cfg h n hinv hc hi hb hflag hpend => ?_, fun i s cfg h n hadm hinit hstop hi hb hdead => ?_⟩
  · obtain ⟨h', hsilent⟩ := Bus.silent_of_dead hb hdead hw
    exact ⟨h', hsilent.isRefBus, hsilent.flag, hsilent.pend⟩
  · exact Stuck.run ⟨⟨c, hc, (hinv.inFlight c hc).1⟩, hi, cfg, h, hb, hflag, hpend⟩ n
  · obtain ⟨t, hexec, hstuck, hres⟩ := exec_stuck hadm hinit hstop hi hb hdead
    exact ⟨t, hexec, hstuck.cur_ne_none, hres, hstuck.run n, hstuck.hangs t.inputs, fun w => ⟨hstuck.hangs _, nofun⟩⟩

end Sys2Proof.Machine
end
